-- ==== Sys2Proof/Word.lean ====
section
/-! DEFINITION. The words of the block and its plainest arithmetic (00_scope.md R15, 30_encoding.md R100). -/

namespace Sys2Proof

/-- A byte of the register bus (20_memory.md R62). -/
abbrev Byte := BitVec 8

/-- A 16-bit address of the register bus or of emulated RAM (20_memory.md R61). -/
abbrev Addr := BitVec 16

/-- A 64-bit command word `CW` (30_encoding.md R100). -/
abbrev Word := BitVec 64

/-- Division truncated toward zero, `tdiv` (00_scope.md R15, 44_render.md R309). -/
def tdiv (a b : Int) : Int := Int.tdiv a b

end Sys2Proof
end

