-- ==== Sys2Proof/Config.lean ====
section
/-! DEFINITION. What an implementation fixes and the spec leaves open (00_scope.md R10, R12, R13, R14), each an
uninterpreted constant, and the plain data its signatures speak of. A claim about the model holds whatever these are. -/

namespace Sys2Proof

/-- The two chip models (00_scope.md R1, 10_state.md R24): the flag `MODEL` is 1 for the 6581, 0 for the 8580. -/
inductive ChipModel where
  | mos8580
  | mos6581
deriving DecidableEq, Repr, Inhabited

/-- A voice index, always 0, 1 or 2 (00_scope.md R17). -/
inductive Voice where
  | v0
  | v1
  | v2
deriving DecidableEq, Repr, Inhabited

/-- One thing for each of the three voices (00_scope.md R9 `N_VOICES`). -/
structure PerVoice (α : Type) where
  v0 : α
  v1 : α
  v2 : α
deriving DecidableEq, Repr, Inhabited

/-- A triple of previous low-pass, band-pass and high-pass outputs (10_state.md R39, R40). -/
structure Hist where
  lp : Int
  bp : Int
  hp : Int
deriving DecidableEq, Repr, Inhabited

/-- State of one external oscillator (10_state.md R33), opaque to the spec: only the functions below give its code a
meaning. DESIGN CHOICE, entry 4: the code is a natural number, so that a state is plain data. -/
structure OscState where
  code : Nat
deriving DecidableEq, Repr, Inhabited

/-- State of one external envelope generator (10_state.md R33). DESIGN CHOICE, entry 4, as for `OscState`. -/
structure EnvState where
  code : Nat
deriving DecidableEq, Repr, Inhabited

/-- The register numbers `oscWrite` accepts, r = 0 to 4 (00_scope.md R12). -/
inductive OscReg where
  | freqLo
  | freqHi
  | pwLo
  | pwHi
  | wave
deriving DecidableEq, Repr

/-- The register numbers `envWrite` accepts, r = 4, 5, 6 (00_scope.md R12). -/
inductive EnvReg where
  | wave
  | ad
  | sr
deriving DecidableEq, Repr

/-- The three Swallow schemes, `k` = 1, 2, 3 (10_state.md R46). -/
inductive SwallowScheme where
  | k1
  | k2
  | k3
deriving DecidableEq, Repr

/-- The two pulse-width registers of a voice, r = 2 and r = 3, that carry a Swallow payload (43_digi_detector.md R249). -/
inductive PulseReg where
  | lo
  | hi
deriving DecidableEq, Repr

/-- The eleven pseudo-registers of the PSID player, the keys of `PSID_MAP` (43_digi_detector.md R262). -/
inductive PsidReg where
  | startLo
  | startHi
  | endLo
  | endHi
  | repAddrLo
  | repAddrHi
  | periodLo
  | periodHi
  | order
  | repCnt
  | control
deriving DecidableEq, Repr

/-- What `FilterXfer` is told on every call besides a history and a sample (00_scope.md R13, 42_filter.md R195): the live
`MODEL`, `CUTOFF`, `RES`, `LP`, `BP`, `HP` and `SRATE`. -/
structure FilterArgs where
  model : ChipModel
  cutoff : BitVec 11
  res : BitVec 4
  lp : Bool
  bp : Bool
  hp : Bool
  srate : BitVec 32
deriving DecidableEq, Repr

namespace Config

/-! The voice collaborator `VoiceModel` (00_scope.md R12), entry 4. -/

opaque oscReset : ChipModel → OscState
opaque envReset : ChipModel → EnvState
opaque oscWrite : OscState → OscReg → Byte → OscState
opaque envWrite : EnvState → EnvReg → Byte → EnvState
opaque oscClock1 : OscState → OscState
opaque oscSync : PerVoice OscState → PerVoice OscState
opaque envClock : EnvState → EnvState
opaque waveOut : PerVoice OscState → Voice → BitVec 16
opaque envOut : EnvState → Byte
opaque osc3Read : OscState → Byte
opaque env3Read : EnvState → Byte

/-- The filter transfer function `FilterXfer(model, CUTOFF, RES, LP, BP, HP, sampleRate, hist, x)` (00_scope.md R13,
42_filter.md R195), entry 5. -/
opaque filterXfer : FilterArgs → Hist → Int → Int × Hist

/-- `RamRead` (00_scope.md R14), a free value: the first argument counts the reads, so two reads of one address need
not agree (93_implementation_defined.md: any value per read), entry 7. -/
opaque ramRead : Nat → Addr → Byte

/-! The open parameters of 00_scope.md R10, entry 6. -/

opaque fmTimeout : Nat
opaque pwmTimeout : Nat
opaque digiMinCount : Nat
opaque mahoneyTable : Byte → Byte
/-- `SWALLOW_SIG[k]`: a pulse width and a frequency. -/
opaque swallowSig : SwallowScheme → BitVec 12 × BitVec 16
/-- `SWALLOW_UNPACK[k]` of a pulse-width register and a byte; none where the register carries no payload. -/
opaque swallowUnpack : SwallowScheme → PulseReg → Byte → Option Byte
/-- `SWALLOW_TRANS(old, new)`. -/
opaque swallowTrans : Byte → Byte → Bool
/-- `VOLMAP[n]` for n = 1 to 9; entry 0 is fixed at 255 by 92_eei_decisions.md D14. -/
opaque volMapRest : Fin 10 → Byte
opaque wfZero : ChipModel → Int
/-- `DAC_OFFSET[6581] - 1`; R10 requires `DAC_OFFSET[6581] > 0`. -/
opaque dacOffset6581Less1 : Nat
opaque dacOffset8580 : Int
/-- `OUT_DIV - 1`; R10 requires a positive integer. -/
opaque outDivLess1 : Nat
opaque digiGain : Nat
/-- `EXT_K(sampleRate)`, a coefficient from 0 to 65536. -/
opaque extK : BitVec 32 → Fin 65537
/-- `PSID_MAP` (43_digi_detector.md R262) within the bounds of 20_memory.md R61 and R71, in two parts: bits 11:5 of the
address of a pseudo-register, a bus address. -/
opaque psidWindow : PsidReg → BitVec 7
/-- `PSID_MAP`, bits 4:0: which of the seven offsets 0x19 to 0x1F, outside the 25 mapped ones (20_memory.md R71). -/
opaque psidOffset : PsidReg → Fin 7

end Config

end Sys2Proof
end

