-- ==== Sys2Proof/Syntax.lean ====
section
/-! DEFINITION. The commands of the block (30_encoding.md R100 to R115). One constructor per mnemonic of
spec/opcode_table.json; the rows that share a mnemonic are the values of one operand (entry 3). Fields of the command
word that a format ignores (R101) are not part of a command. -/

namespace Sys2Proof

/-- Operands. `win` is `ADDR[15:5]`, the 32-byte window of a bus address, and `v` the voice that `ADDR[4:0]` names;
`addr` is `ADDR` whole where `ADDR[4:0]` is free within the row's offsets; `val` is `DATA[7:0]`; `c` is `SEL`, a chip
index of which 10 to 255 name no chip (R103, R115). -/
inductive Instr where
  /-- `WRITE` to offset 7v + 0 (40_register_access.md R135). -/
  | writeFreqLo (win : BitVec 11) (v : Voice) (val : Byte)
  /-- `WRITE` to offset 7v + 1 (R136). -/
  | writeFreqHi (win : BitVec 11) (v : Voice) (val : Byte)
  /-- `WRITE` to offset 7v + 2 (R137). -/
  | writePwLo (win : BitVec 11) (v : Voice) (val : Byte)
  /-- `WRITE` to offset 7v + 3 (R138). -/
  | writePwHi (win : BitVec 11) (v : Voice) (val : Byte)
  /-- `WRITE` to offset 7v + 4 (R139). -/
  | writeWave (win : BitVec 11) (v : Voice) (val : Byte)
  /-- `WRITE` to offset 7v + 5 (R140). -/
  | writeAd (win : BitVec 11) (v : Voice) (val : Byte)
  /-- `WRITE` to offset 7v + 6 (R141). -/
  | writeSr (win : BitVec 11) (v : Voice) (val : Byte)
  /-- `WRITE` to offset 0x15 (R145). -/
  | writeFcLo (win : BitVec 11) (val : Byte)
  /-- `WRITE` to offset 0x16 (R146). -/
  | writeFcHi (win : BitVec 11) (val : Byte)
  /-- `WRITE` to offset 0x17 (R147). -/
  | writeResFilt (win : BitVec 11) (val : Byte)
  /-- `WRITE` to offset 0x18 (R148). -/
  | writeModeVol (win : BitVec 11) (val : Byte)
  /-- `WRITE` to an offset from 0x19 to 0x1F (R149). -/
  | writeUnmapped (addr : Addr) (val : Byte)
  /-- `READ` of any offset but 0x1B and 0x1C (R159). -/
  | readBus (addr : Addr)
  /-- `READ` of offset 0x1B (R160). -/
  | readOsc3 (win : BitVec 11)
  /-- `READ` of offset 0x1C (R161). -/
  | readEnv3 (win : BitVec 11)
  /-- `PEEK` of any offset but 0x1B and 0x1C (R157, R159). -/
  | peekBus (addr : Addr)
  /-- `PEEK` of offset 0x1B (R157, R160). -/
  | peekOsc3 (win : BitVec 11)
  /-- `PEEK` of offset 0x1C (R157, R161). -/
  | peekEnv3 (win : BitVec 11)
  /-- One cycle of every active chip (41_clock.md R183). -/
  | clockAll
  /-- One sample of every active chip (45_registry.md R343). -/
  | synthAll (traceEn : Bool) (offset : BitVec 32)
  /-- One stripped sample of every active chip (45_registry.md R344). -/
  | synthAllStripped (offset : BitVec 32)
  /-- The full reset of the registry (45_registry.md R339). -/
  | resetAll
  /-- `CFG_SRATE` (45_registry.md R332). -/
  | configSrate (n : BitVec 32)
  /-- `CFG_CRATE` (45_registry.md R333). -/
  | configCrate (n : BitVec 32)
  /-- The four configuration flags, `DATA[0]` to `DATA[3]` (45_registry.md R334). -/
  | configFlags (realFile compat extMulti extFilt : Bool)
  /-- `CFG_COUNT` (45_registry.md R335). -/
  | configCount (n : BitVec 4)
  /-- One slot of the configuration: base address, default model bit, override, channel (45_registry.md R336). -/
  | configChip (slot : Fin 10) (base : Addr) (m6581 : Bool) (ovr : BitVec 2) (chan : BitVec 1)
  /-- `CONFIG` with a reserved selector (30_encoding.md R115). -/
  | configReserved (sel : BitVec 8)
  /-- The model bits of the ten chips (45_registry.md R345). -/
  | setModels (bits : BitVec 10)
  /-- `resetCount()` of a chip's detector (43_digi_detector.md R272). -/
  | digiCtrlResetCount (c : BitVec 8)
  /-- `setEnabled(false)` (R273). -/
  | digiCtrlDisable (c : BitVec 8)
  /-- `setEnabled(true)` (R273). -/
  | digiCtrlEnable (c : BitVec 8)
  /-- Detector reset (R275). -/
  | digiCtrlReset (c : BitVec 8)
  /-- `getType()` (R276). -/
  | digiQueryType (c : BitVec 8)
  /-- `getRate()` (R277). -/
  | digiQueryRate (c : BitVec 8)
  /-- `getTypeDesc()` (R278). -/
  | digiQueryDesc (c : BitVec 8)
  /-- The reserved sub-operation 3 of `DIGI_QUERY` (30_encoding.md R115). -/
  | digiQueryReserved (c : BitVec 8)
  /-- One cycle of one chip (41_clock.md R181). -/
  | clock (c : BitVec 8)
  /-- One sample of one chip (44_render.md R291). -/
  | synth (c : BitVec 8) (scale : Byte) (clearFlag traceEn : Bool) (offset : BitVec 32)
  /-- One stripped sample of one chip (44_render.md R305). -/
  | synthStripped (c : BitVec 8) (scale : Byte) (clearFlag : Bool) (offset : BitVec 32)
  /-- Reset of one chip (45_registry.md R337). -/
  | reset (c : BitVec 8)
  /-- A reserved opcode, 0x00 or 0x10 to 0xFF (30_encoding.md R115). -/
  | reserved (op : BitVec 8)
deriving DecidableEq, Repr

end Sys2Proof
end

