-- ==== Sys2Proof/WellFormed.lean ====
section
/-! DEFINITION. Which commands the encoding admits (30_encoding.md R105, R106, R110, R115). Only the constructors with a
number that is free within a row's set can be ill-formed; the types rule out the rest. -/

namespace Sys2Proof

/-- `reg = ADDR[4:0]`, the register offset of a bus address (20_memory.md R63, 30_encoding.md R103). -/
def regOf (addr : Addr) : BitVec 5 := addr.extractLsb' 0 5

/-- Offsets 0x19 to 0x1F are written by `WRITE.UNMAPPED` (30_encoding.md R105). -/
def isUnmappedReg (reg : BitVec 5) : Bool := decide (0x19 ≤ reg.toNat)

/-- Offsets 0x1B and 0x1C are the live reads; every other one is `READ.BUS` (30_encoding.md R106). -/
def isBusReadReg (reg : BitVec 5) : Bool := decide (reg.toNat ≠ 0x1B ∧ reg.toNat ≠ 0x1C)

/-- The selectors of CONFIG that 30_encoding.md R110 does not list. -/
def isReservedSel (sel : BitVec 8) : Bool :=
  decide (4 ≤ sel.toNat ∧ ¬ (0x10 ≤ sel.toNat ∧ sel.toNat ≤ 0x19))

/-- The reserved opcodes, 0x00 and 0x10 to 0xFF (30_encoding.md R102, R115). -/
def isReservedOp (op : BitVec 8) : Bool := decide (op.toNat = 0 ∨ 0x10 ≤ op.toNat)

/-- The checks on a command's operands. -/
def Instr.wellFormed : Instr → Bool
  | .writeUnmapped addr _ => isUnmappedReg (regOf addr)
  | .readBus addr => isBusReadReg (regOf addr)
  | .peekBus addr => isBusReadReg (regOf addr)
  | .configReserved sel => isReservedSel sel
  | .reserved op => isReservedOp op
  | .writeFreqLo .. | .writeFreqHi .. | .writePwLo .. | .writePwHi .. | .writeWave .. | .writeAd .. | .writeSr ..
  | .writeFcLo .. | .writeFcHi .. | .writeResFilt .. | .writeModeVol .. | .readOsc3 .. | .readEnv3 ..
  | .peekOsc3 .. | .peekEnv3 .. | .clockAll | .synthAll .. | .synthAllStripped .. | .resetAll
  | .configSrate .. | .configCrate .. | .configFlags .. | .configCount .. | .configChip .. | .setModels ..
  | .digiCtrlResetCount .. | .digiCtrlDisable .. | .digiCtrlEnable .. | .digiCtrlReset ..
  | .digiQueryType .. | .digiQueryRate .. | .digiQueryDesc .. | .digiQueryReserved ..
  | .clock .. | .synth .. | .synthStripped .. | .reset .. => true

end Sys2Proof
end

