-- ==== Sys2Proof/Decode.lean ====
section
/-! DEFINITION. The decoder of a command word, total (the rows of spec/opcode_table.json partition the 64-bit space,
30_encoding.md R115), and after it the encoder, both written from 30_encoding.md R100 to R113. Reserved encodings decode
to constructors of their own. -/

namespace Sys2Proof

/-- `OP = CW[63:56]` (30_encoding.md R100). -/
def opOf (w : Word) : BitVec 8 := w.extractLsb' 56 8

/-- `SEL = CW[55:48]`. -/
def selOf (w : Word) : BitVec 8 := w.extractLsb' 48 8

/-- `ADDR = CW[47:32]`. -/
def addrOf (w : Word) : Addr := w.extractLsb' 32 16

/-- `DATA = CW[31:0]`. -/
def dataOf (w : Word) : BitVec 32 := w.extractLsb' 0 32

/-- The window of a bus address, `ADDR[15:5]`. -/
def winOf (addr : Addr) : BitVec 11 := addr.extractLsb' 5 11

/-- The bus address of offset `reg` in window `win`. -/
def busAddr (win : BitVec 11) (reg : BitVec 5) : Addr := win ++ reg

/-- The voice index `reg div 7` (30_encoding.md R105). -/
def voiceOfIndex : Nat → Voice
  | 0 => .v0
  | 1 => .v1
  | _ => .v2

/-- The number of a voice index (00_scope.md R17). -/
def voiceIndex : Voice → Nat
  | .v0 => 0
  | .v1 => 1
  | .v2 => 2

/-- The register offset `7v + r` (30_encoding.md R105, R107). -/
def voiceReg (v : Voice) (r : Nat) : BitVec 5 := BitVec.ofNat 5 (7 * voiceIndex v + r)

/-- WRITE, decoded a second time by `reg = ADDR[4:0]` (30_encoding.md R105). -/
def decodeWrite (addr : Addr) (val : Byte) : Instr :=
  let reg := (regOf addr).toNat
  let win := winOf addr
  if reg ≤ 20 then
    let v := voiceOfIndex (reg / 7)
    match reg % 7 with
    | 0 => .writeFreqLo win v val
    | 1 => .writeFreqHi win v val
    | 2 => .writePwLo win v val
    | 3 => .writePwHi win v val
    | 4 => .writeWave win v val
    | 5 => .writeAd win v val
    | _ => .writeSr win v val
  else
    match reg with
    | 0x15 => .writeFcLo win val
    | 0x16 => .writeFcHi win val
    | 0x17 => .writeResFilt win val
    | 0x18 => .writeModeVol win val
    | _ => .writeUnmapped addr val

/-- READ, decoded by the same `reg` (30_encoding.md R106). -/
def decodeRead (addr : Addr) : Instr :=
  match (regOf addr).toNat with
  | 0x1B => .readOsc3 (winOf addr)
  | 0x1C => .readEnv3 (winOf addr)
  | _ => .readBus addr

/-- PEEK decodes the same way (30_encoding.md R106). -/
def decodePeek (addr : Addr) : Instr :=
  match (regOf addr).toNat with
  | 0x1B => .peekOsc3 (winOf addr)
  | 0x1C => .peekEnv3 (winOf addr)
  | _ => .peekBus addr

/-- CONFIG, decoded by `SEL` (30_encoding.md R110). -/
def decodeConfig (sel : BitVec 8) (addr : Addr) (data : BitVec 32) : Instr :=
  match sel.toNat with
  | 0x00 => .configSrate data
  | 0x01 => .configCrate data
  | 0x02 => .configFlags (data.getLsbD 0) (data.getLsbD 1) (data.getLsbD 2) (data.getLsbD 3)
  | 0x03 => .configCount (data.extractLsb' 0 4)
  | _ =>
    if 0x10 ≤ sel.toNat ∧ sel.toNat ≤ 0x19 then
      .configChip (Fin.ofNat 10 (sel.toNat - 0x10)) addr (data.getLsbD 0) (data.extractLsb' 1 2) (data.extractLsb' 3 1)
    else .configReserved sel

/-- DIGI_CTRL, decoded by `DATA[1:0]` (30_encoding.md R112). -/
def decodeDigiCtrl (sel : BitVec 8) (data : BitVec 32) : Instr :=
  match (data.extractLsb' 0 2).toNat with
  | 0 => .digiCtrlResetCount sel
  | 1 => .digiCtrlDisable sel
  | 2 => .digiCtrlEnable sel
  | _ => .digiCtrlReset sel

/-- DIGI_QUERY, decoded by `DATA[1:0]` (30_encoding.md R113). -/
def decodeDigiQuery (sel : BitVec 8) (data : BitVec 32) : Instr :=
  match (data.extractLsb' 0 2).toNat with
  | 0 => .digiQueryType sel
  | 1 => .digiQueryRate sel
  | 2 => .digiQueryDesc sel
  | _ => .digiQueryReserved sel

/-- The scale numerator of a render command, `ADDR[7:0]` (30_encoding.md R101, R103). -/
def scaleOf (addr : Addr) : Byte := addr.extractLsb' 0 8

/-- `clearFlag`, `ADDR[8]` (30_encoding.md R101). -/
def clearFlagOf (addr : Addr) : Bool := addr.getLsbD 8

/-- `traceEn`, `ADDR[9]` (30_encoding.md R101). -/
def traceEnOf (addr : Addr) : Bool := addr.getLsbD 9

/-- The opcode map of 30_encoding.md R102 over the four fields of the command word. -/
def decodeFields (op sel : BitVec 8) (addr : Addr) (data : BitVec 32) : Instr :=
  match op.toNat with
  | 0x01 => decodeWrite addr (data.extractLsb' 0 8)
  | 0x02 => decodeRead addr
  | 0x03 => decodePeek addr
  | 0x04 => .clockAll
  | 0x05 => .synthAll (traceEnOf addr) data
  | 0x06 => .synthAllStripped data
  | 0x07 => .resetAll
  | 0x08 => decodeConfig sel addr data
  | 0x09 => .setModels (data.extractLsb' 0 10)
  | 0x0A => decodeDigiCtrl sel data
  | 0x0B => decodeDigiQuery sel data
  | 0x0C => .clock sel
  | 0x0D => .synth sel (scaleOf addr) (clearFlagOf addr) (traceEnOf addr) data
  | 0x0E => .synthStripped sel (scaleOf addr) (clearFlagOf addr) data
  | 0x0F => .reset sel
  | _ => .reserved op

/-- The command a command word stands for. Every word stands for one. -/
def decode (w : Word) : Instr := decodeFields (opOf w) (selOf w) (addrOf w) (dataOf w)

/-- Why a sequence of command words of the wrong width is no command: 30_encoding.md R100 gives one length. -/
inductive DecodeError where
  /-- The number of bits is not that of a command word. -/
  | notACommandWord
deriving DecidableEq, Repr

/-- Decode an encoding of `nbits` bits numbered as the opcode table numbers them; more than 64 is refused by name. -/
def decodeBits (nbits w : Nat) : Except DecodeError Instr :=
  if nbits ≤ 64 then .ok (decode (BitVec.ofNat 64 w)) else .error .notACommandWord

/-- The host's question: the instruction the decoder reads from the bits `w`. -/
def decodeTableWord (nbits w : Nat) : Option Instr :=
  match decodeBits nbits w with
  | .ok i => some i
  | .error _ => none

/-- The command word `{OP, SEL, ADDR, DATA}` (30_encoding.md R100). -/
def commandWord (op sel : BitVec 8) (addr : Addr) (data : BitVec 32) : Word := (op ++ sel ++ addr ++ data : BitVec 64)

/-- The data field of a bus write: the byte in bits 7:0, zero above (30_encoding.md R101). -/
def byteData (val : Byte) : BitVec 32 := val.setWidth 32

/-- The `ADDR` field of a render command (30_encoding.md R101, R117). -/
def renderAddr (scale : Byte) (clearFlag traceEn : Bool) : Addr :=
  BitVec.ofNat 6 0 ++ BitVec.ofBool traceEn ++ BitVec.ofBool clearFlag ++ scale

/-- The `DATA` field of `CONFIG FLAGS` (30_encoding.md R110). -/
def flagsData (realFile compat extMulti extFilt : Bool) : BitVec 32 :=
  BitVec.ofNat 28 0 ++ BitVec.ofBool extFilt ++ BitVec.ofBool extMulti ++ BitVec.ofBool compat ++ BitVec.ofBool realFile

/-- The `DATA` field of `CONFIG CHIP` (30_encoding.md R110, R117). -/
def slotData (m6581 : Bool) (ovr : BitVec 2) (chan : BitVec 1) : BitVec 32 :=
  BitVec.ofNat 28 0 ++ chan ++ ovr ++ BitVec.ofBool m6581

/-- WRITE to offset `7v + r` of window `win`. -/
def encodeVoiceWrite (win : BitVec 11) (v : Voice) (r : Nat) (val : Byte) : Word :=
  commandWord 0x01 0 (busAddr win (voiceReg v r)) (byteData val)

/-- WRITE to offset `reg` of window `win`. -/
def encodeFilterWrite (win : BitVec 11) (reg : BitVec 5) (val : Byte) : Word :=
  commandWord 0x01 0 (busAddr win reg) (byteData val)

/-- The command word of a command, zero in every field the command does not use (30_encoding.md R100, R117). -/
def encode : Instr → Word
  | .writeFreqLo win v val => encodeVoiceWrite win v 0 val
  | .writeFreqHi win v val => encodeVoiceWrite win v 1 val
  | .writePwLo win v val => encodeVoiceWrite win v 2 val
  | .writePwHi win v val => encodeVoiceWrite win v 3 val
  | .writeWave win v val => encodeVoiceWrite win v 4 val
  | .writeAd win v val => encodeVoiceWrite win v 5 val
  | .writeSr win v val => encodeVoiceWrite win v 6 val
  | .writeFcLo win val => encodeFilterWrite win 0x15 val
  | .writeFcHi win val => encodeFilterWrite win 0x16 val
  | .writeResFilt win val => encodeFilterWrite win 0x17 val
  | .writeModeVol win val => encodeFilterWrite win 0x18 val
  | .writeUnmapped addr val => commandWord 0x01 0 addr (byteData val)
  | .readBus addr => commandWord 0x02 0 addr 0
  | .readOsc3 win => commandWord 0x02 0 (busAddr win 0x1B) 0
  | .readEnv3 win => commandWord 0x02 0 (busAddr win 0x1C) 0
  | .peekBus addr => commandWord 0x03 0 addr 0
  | .peekOsc3 win => commandWord 0x03 0 (busAddr win 0x1B) 0
  | .peekEnv3 win => commandWord 0x03 0 (busAddr win 0x1C) 0
  | .clockAll => commandWord 0x04 0 0 0
  | .synthAll traceEn offset => commandWord 0x05 0 (renderAddr 0 false traceEn) offset
  | .synthAllStripped offset => commandWord 0x06 0 0 offset
  | .resetAll => commandWord 0x07 0 0 0
  | .configSrate n => commandWord 0x08 0x00 0 n
  | .configCrate n => commandWord 0x08 0x01 0 n
  | .configFlags realFile compat extMulti extFilt => commandWord 0x08 0x02 0 (flagsData realFile compat extMulti extFilt)
  | .configCount n => commandWord 0x08 0x03 0 (n.setWidth 32)
  | .configChip slot base m6581 ovr chan =>
    commandWord 0x08 (BitVec.ofNat 8 (0x10 + slot.val)) base (slotData m6581 ovr chan)
  | .configReserved sel => commandWord 0x08 sel 0 0
  | .setModels bits => commandWord 0x09 0 0 (bits.setWidth 32)
  | .digiCtrlResetCount c => commandWord 0x0A c 0 0
  | .digiCtrlDisable c => commandWord 0x0A c 0 1
  | .digiCtrlEnable c => commandWord 0x0A c 0 2
  | .digiCtrlReset c => commandWord 0x0A c 0 3
  | .digiQueryType c => commandWord 0x0B c 0 0
  | .digiQueryRate c => commandWord 0x0B c 0 1
  | .digiQueryDesc c => commandWord 0x0B c 0 2
  | .digiQueryReserved c => commandWord 0x0B c 0 3
  | .clock c => commandWord 0x0C c 0 0
  | .synth c scale clearFlag traceEn offset => commandWord 0x0D c (renderAddr scale clearFlag traceEn) offset
  | .synthStripped c scale clearFlag offset => commandWord 0x0E c (renderAddr scale clearFlag false) offset
  | .reset c => commandWord 0x0F c 0 0
  | .reserved op => commandWord op 0 0 0

end Sys2Proof
end

