-- ==== Sys2Proof/Machine/State.lean ====
section
/-! DEFINITION. The state of the block as plain data (10_state.md), the reasons a command is refused, and the state at
power-on (10_state.md R60). Names follow the spec's; each field's comment gives its rule. -/

namespace Sys2Proof.Machine

/-- Why the machine stops with a fault: never. The block raises no exception (60_exceptions.md R360, R364), so the type
has no constructor. -/
inductive Fault where
deriving DecidableEq, Repr

/-- Why the model gives a command no successor state (60_exceptions.md R362). A refusal is the model's, not an output of
the hardware; each is safe, since nothing can be proved of a run past it. -/
inductive Refusal where
  /-- WRITE, READ or PEEK of an address outside 0xD000..0xDFFF, one the lookup does not map, or one before the first
  RESETALL: "undefined behavior, not guarded" (20_memory.md R65). Safe. -/
  | unmappedAddress
  /-- A command other than RESET or RESETALL reaches a chip that was never reset (70_reset_and_hazards.md R388). Safe. -/
  | uninitialisedChip
  /-- RESETALL finds an illegal or repeated base address of an extra chip in use (20_memory.md R66, 45_registry.md
  R339). Safe. -/
  | badBase
  /-- RESET or RESETALL finds a sample rate or clock rate of 0 (45_registry.md R338, R339). Safe. -/
  | badRate
  /-- An instruction without a meaning yet; no arm of `exec` answers it. Safe. -/
  | notModelled (mnemonic : String)
deriving DecidableEq, Repr

/-- `LIFE` (10_state.md R21). -/
inductive Life where
  | uninit
  | reset
  | active
deriving DecidableEq, Repr

/-- The seven voice registers of one voice, `REG[7v + 0]` to `REG[7v + 6]` (10_state.md R27, R28). -/
structure VoiceRegs where
  freqLo : Byte
  freqHi : Byte
  pwLo : Byte
  pwHi : Byte
  wave : Byte
  ad : Byte
  sr : Byte
deriving DecidableEq, Repr

/-- The Filter (10_state.md R34 to R41). -/
structure Filter where
  /-- `CUTOFF` (R34). -/
  cutoff : BitVec 11
  /-- `RES` (R35). -/
  res : BitVec 4
  /-- `FILT[0..2]` (R36). -/
  filt : PerVoice Bool
  /-- `LP` (R37). -/
  lp : Bool
  /-- `BP` (R37). -/
  bp : Bool
  /-- `HP` (R37). -/
  hp : Bool
  /-- `V3OFF` (R38). -/
  v3off : Bool
  /-- `FH`, the main history (R39). -/
  fh : Hist
  /-- `FS[0..2]`, the visualisation histories (R40). -/
  fs : PerVoice Hist
  /-- `EXT_Y` (R41). -/
  extY : Int
deriving DecidableEq, Repr

/-- Phases of the FM automaton (10_state.md R44). -/
inductive FmPhase where
  | idle
  | prep
  | set
  | variant1
  | variant2
deriving DecidableEq, Repr

/-- `FM[v]` (10_state.md R44). -/
structure FmRec where
  phase : FmPhase
  ts : BitVec 32
  pend : Byte
deriving DecidableEq, Repr

/-- Phases of the PWM-test automaton (10_state.md R45). -/
inductive PwPhase where
  | idle
  | prepA
  | confirmA
  | prepB
  | confirmB
deriving DecidableEq, Repr

/-- `PW[v]` (10_state.md R45). -/
structure PwRec where
  phase : PwPhase
  ts : BitVec 32
  pend : Byte
deriving DecidableEq, Repr

/-- `DD_TYPE` (10_state.md R43); its codes are in `digiTypeCode`. -/
inductive DigiType where
  | none
  | fm
  | pwm
  | swallow
  | d418
  | m418
deriving DecidableEq, Repr

/-- `DD_SRC` (10_state.md R42): `volume` is the code 0, `voice v` the code v + 1. -/
inductive DigiSrc where
  | unused
  | volume
  | voice (v : Voice)
deriving DecidableEq, Repr

/-- The PSID digi player (10_state.md R47). -/
structure Psid where
  /-- `PR_START`. -/
  prStart : Addr
  /-- `PR_END`. -/
  prEnd : Addr
  /-- `PR_REPADDR`. -/
  prRepAddr : Addr
  /-- `PR_PERIOD`. -/
  prPeriod : BitVec 16
  /-- `PR_ORDER`. -/
  prOrder : Byte
  /-- `PR_REPCNT`. -/
  prRepCnt : Byte
  /-- `PD_ACTIVE`. -/
  pdActive : Bool
  /-- `PD_CUR`. -/
  pdCur : Addr
  /-- `PD_POS`, 16 fraction bits. -/
  pdPos : BitVec 48
  /-- `PD_STEP`, 16 fraction bits. -/
  pdStep : BitVec 32
  /-- `PD_CNT`. -/
  pdCnt : Byte
deriving DecidableEq, Repr

/-- The DigiDetector (10_state.md R42 to R47). -/
structure Detector where
  /-- `DD_EN` (R43). -/
  en : Bool
  /-- `DD_TYPE` (R43). -/
  type : DigiType
  /-- `DD_SRC` (R42). -/
  src : DigiSrc
  /-- `DD_SAMPLE` (R43). -/
  sample : Byte
  /-- `DD_COUNT` (R43). -/
  count : BitVec 32
  /-- `DD_MUTED[0..2]` (R43). -/
  muted : PerVoice Bool
  /-- `FM[0..2]` (R44). -/
  fm : PerVoice FmRec
  /-- `PW[0..2]` (R45). -/
  pw : PerVoice PwRec
  /-- `SW[0..2]` (R46): none is the code 0. -/
  sw : PerVoice (Option SwallowScheme)
  /-- `PR_*` and `PD_*` (R47). -/
  psid : Psid
deriving DecidableEq, Repr

/-- One chip instance (10_state.md R20 to R33). -/
structure Chip where
  /-- `LIFE` (R21). -/
  life : Life
  /-- `BASE` (R23). -/
  base : Addr
  /-- `MODEL` (R24). -/
  model : ChipModel
  /-- `SRATE` (R25). -/
  srate : BitVec 32
  /-- `CRATE` (R25). -/
  crate : BitVec 32
  /-- `REALFILE` (R25). -/
  realFile : Bool
  /-- `COMPAT` (R25), stored and read by no rule (entry 10). -/
  compat : Bool
  /-- `CHAN` (R25). -/
  chan : BitVec 1
  /-- `WFZ` (R26). -/
  wfz : Int
  /-- `DACO` (R26). -/
  daco : Int
  /-- `REG[0..20]` (R27). -/
  regs : PerVoice VoiceRegs
  /-- `BUS` (R29). -/
  bus : Byte
  /-- `VOL` (R30). -/
  vol : BitVec 4
  /-- `MUTE[0..2]` (R31). -/
  mute : PerVoice Bool
  /-- `CYC` (R32). -/
  cyc : BitVec 32
  /-- `OSC[0..2]` (R33). -/
  osc : PerVoice OscState
  /-- `ENV[0..2]` (R33). -/
  env : PerVoice EnvState
  filter : Filter
  det : Detector
deriving DecidableEq, Repr

/-- One slot of the configuration (10_state.md R52). -/
structure Slot where
  /-- `CFG_ADDR[i]`. -/
  addr : Addr
  /-- `CFG_M6581[i]`. -/
  m6581 : Bool
  /-- `CFG_OVR[i]`. -/
  ovr : BitVec 2
  /-- `CFG_CHAN[i]`. -/
  chan : BitVec 1
deriving DecidableEq, Repr

/-- One run of entries of `LUT` that name the same chip (10_state.md R54; entry 11): the `size` addresses from `base`. -/
structure LutWindow where
  base : Addr
  size : Nat
  chip : Fin 10
deriving DecidableEq, Repr

/-- The registry record (10_state.md R49 to R54, R57). -/
structure Registry where
  /-- `CFG_SRATE` (R49). -/
  cfgSrate : BitVec 32
  /-- `CFG_CRATE` (R49). -/
  cfgCrate : BitVec 32
  /-- `CFG_REALFILE` (R50). -/
  cfgRealFile : Bool
  /-- `CFG_COMPAT` (R50). -/
  cfgCompat : Bool
  /-- `CFG_EXTMULTI` (R50). -/
  cfgExtMulti : Bool
  /-- `EXT_EN` (R57). -/
  extEn : Bool
  /-- `CFG_COUNT` (R51). -/
  cfgCount : BitVec 4
  /-- `CFG_ADDR[i]`, `CFG_M6581[i]`, `CFG_OVR[i]`, `CFG_CHAN[i]` (R52). -/
  slots : Vector Slot 10
  /-- `N_USED` (R53), 0 before the first RESETALL (entry 12). -/
  nUsed : Fin 11
  /-- `LUT` (R54): the first window that holds an address names its chip; an address in none is `UNMAPPED` (entry 11). -/
  lut : List LutWindow
deriving DecidableEq, Repr

/-- A caller's buffer as (byte address, byte) pairs, addresses strictly rising, no entry equal to what an unlisted
address reads as (entry 8). -/
abbrev Memory := List Host.Cell

/-- The four trace buffers (20_memory.md R73). -/
structure Traces where
  /-- `TRACE[v]`, v = 0, 1, 2. -/
  voice : PerVoice Memory
  /-- `TRACE[3]`. -/
  digi : Memory
deriving DecidableEq, Repr

/-- The whole state: the block's (10_state.md R20), the caller's buffers (20_memory.md R72, R73), and what the model adds
(entries 1, 2 and 7). -/
structure State where
  /-- `CHIP[0..9]`. -/
  chips : Vector Chip 10
  /-- The registry record. -/
  registry : Registry
  /-- The PCM buffer, two bytes a word. -/
  pcm : Memory
  /-- The trace buffers, two bytes a word. -/
  traces : Traces
  /-- The command words issued and not yet taken, oldest first: the model's own (entry 1). -/
  port : List Word
  /-- The response words answered so far, oldest first: the model's own (entry 2). -/
  responses : List (BitVec 32)
  /-- How many bytes of emulated RAM have been read: the model's own (entry 7). -/
  ramReads : Nat
deriving DecidableEq, Repr

/-- The same thing for each voice. -/
def perVoice {α : Type} (x : α) : PerVoice α := ⟨x, x, x⟩

/-- The triple (0, 0, 0). -/
def zeroHist : Hist := ⟨0, 0, 0⟩

/-- A voice's registers, all 0. -/
def zeroRegs : VoiceRegs := ⟨0, 0, 0, 0, 0, 0, 0⟩

/-- `(Idle, 0, 0)`. -/
def idleFm : FmRec := ⟨.idle, 0, 0⟩

/-- `(Idle, 0, 0)`. -/
def idlePw : PwRec := ⟨.idle, 0, 0⟩

/-- Every latch and running register of the PSID player at 0 (43_digi_detector.md R275). -/
def zeroPsid : Psid := ⟨0, 0, 0, 0, 0, 0, false, 0, 0, 0, 0⟩

/-- A chip at power-on. `LIFE` is the spec's (10_state.md R60); the other fields are "unspecified" there and read by no
command the spec defines. DESIGN CHOICE, unsafe, entry 9: zero, idle, none. -/
def powerOnChip : Chip where
  life := .uninit
  base := 0
  model := .mos8580
  srate := 0
  crate := 0
  realFile := false
  compat := false
  chan := 0
  wfz := 0
  daco := 0
  regs := perVoice zeroRegs
  bus := 0
  vol := 0
  mute := perVoice false
  cyc := 0
  osc := perVoice ⟨0⟩
  env := perVoice ⟨0⟩
  filter := ⟨0, 0, perVoice false, false, false, false, false, zeroHist, perVoice zeroHist, 0⟩
  det := ⟨false, .none, .unused, 0, 0, perVoice false, perVoice idleFm, perVoice idlePw, perVoice none, zeroPsid⟩

/-- The base address of chip 0, `CHIP0_BASE` (00_scope.md R9). -/
def chip0Base : Addr := 0xD400

/-- A configuration slot at power-on (10_state.md R60): 8580, no override, channel 0. -/
def powerOnSlot (addr : Addr) : Slot := ⟨addr, false, 0, 0⟩

/-- The registry at power-on (10_state.md R60). -/
def powerOnRegistry : Registry where
  cfgSrate := 0
  cfgCrate := 0
  cfgRealFile := false
  cfgCompat := false
  cfgExtMulti := false
  extEn := true
  cfgCount := 1
  slots := (Vector.replicate 10 (powerOnSlot 0)).set 0 (powerOnSlot chip0Base)
  nUsed := 0
  lut := []

/-- The machine at power-on, before any command (10_state.md R60, 70_reset_and_hazards.md R385). -/
def State.reset : State where
  chips := Vector.replicate 10 powerOnChip
  registry := powerOnRegistry
  pcm := []
  traces := ⟨perVoice [], []⟩
  port := []
  responses := []
  ramReads := 0

end Sys2Proof.Machine
end

