-- ==== Sys2Proof/Machine/Ops.lean ====
section
/-! DEFINITION. The named operations over the state: outcomes, the three-voice files, the caller's memories byte by byte
and word by word, the clip, the chips, the response port. There is no operation that takes an exception: the block raises
none (60_exceptions.md R360, R364). Its one abnormal outcome, `refuse`, is in `onChip`, `onInitialised` and the checks of
Machine/Registry.lean. -/

namespace Sys2Proof

/-- Read the file of the three voices at a voice index. -/
def PerVoice.get {α : Type} (p : PerVoice α) : Voice → α
  | .v0 => p.v0
  | .v1 => p.v1
  | .v2 => p.v2

/-- Write the file of the three voices at a voice index. -/
def PerVoice.set {α : Type} (p : PerVoice α) (v : Voice) (x : α) : PerVoice α :=
  match v with
  | .v0 => { p with v0 := x }
  | .v1 => { p with v1 := x }
  | .v2 => { p with v2 := x }

/-- Apply a function at every voice. -/
def PerVoice.map {α β : Type} (f : α → β) (p : PerVoice α) : PerVoice β := ⟨f p.v0, f p.v1, f p.v2⟩

end Sys2Proof

namespace Sys2Proof.Machine

/-- What a command answers. -/
abbrev Result := Host.Outcome State Fault Refusal

/-- Run `k` on the next state of `r`; a fault or a refusal stays what it is. -/
def andThen (r : Result) (k : State → Result) : Result :=
  match r with
  | .next s => k s
  | .fault e => .fault e
  | .refused e => .refused e

/-- Run a per-chip command on each chip of a list, in order (the loops of the ALL commands). -/
def forEach (f : Fin 10 → State → Result) : List (Fin 10) → State → Result
  | [], s => .next s
  | i :: rest, s => andThen (f i s) (forEach f rest)

/-! ### The caller's memories (20_memory.md R67, R72 to R75; entry 8) -/

/-- What a byte no entry lists reads as. The spec gives the caller's buffers no contents; DESIGN CHOICE, unsafe, entry 8. -/
def unlistedByte : Byte := 0

/-- Read one byte. -/
def readByte : Memory → Nat → Byte
  | [], _ => unlistedByte
  | (x, c) :: rest, a => if x = a then c else readByte rest a

/-- Write one byte, keeping the canonical form. -/
def writeByte (a : Nat) (b : Byte) : Memory → Memory
  | [] => if b = unlistedByte then [] else [(a, b)]
  | (x, c) :: rest =>
    if x < a then (x, c) :: writeByte a b rest
    else
      let after := if x = a then rest else (x, c) :: rest
      if b = unlistedByte then after else (a, b) :: after

/-- The canonical form: addresses strictly rising, no entry equal to what an unlisted address reads as. -/
def Memory.wf : Memory → Bool
  | [] => true
  | (x, c) :: rest => decide (c ≠ unlistedByte) && rest.all (fun p => decide (x < p.1)) && Memory.wf rest

/-- The 16-bit word of index `i`: its low byte at the lower byte address (20_memory.md R67). -/
def readWord (m : Memory) (i : Nat) : BitVec 16 := readByte m (2 * i + 1) ++ readByte m (2 * i)

/-- Write the 16-bit word of index `i` (20_memory.md R67). -/
def writeWord (i : Nat) (w : BitVec 16) (m : Memory) : Memory :=
  writeByte (2 * i + 1) (w.extractLsb' 8 8) (writeByte (2 * i) (w.extractLsb' 0 8) m)

/-- The signed value of the word of index `i` (44_render.md R302: the old word is read as signed). -/
def readSample (m : Memory) (i : Nat) : Int := (readWord m i).toInt

/-- Store a signed value as the word of index `i`. -/
def writeSample (i : Nat) (y : Int) (m : Memory) : Memory := writeWord i (BitVec.ofInt 16 y) m

/-- The magnitude of the clip bound, 32767 both ways (00_scope.md R9, 90_conflicts.md C3). -/
def clipBound : Int := 32767

/-- The hard clip (44_render.md R300). -/
def clip (x : Int) : Int :=
  if x > clipBound then clipBound else if x < -clipBound then -clipBound else x

/-- The PCM word index `2 × offset + CHAN` (20_memory.md R72, 44_render.md R302). -/
def pcmIndex (offset : BitVec 32) (chan : BitVec 1) : Nat := 2 * offset.toNat + chan.toNat

/-- The PCM write primitive (20_memory.md R74, 44_render.md R302): overwrite with `clearFlag`, else accumulate and clip. -/
def pcmWrite (offset : BitVec 32) (chan : BitVec 1) (clearFlag : Bool) (y : Int) (m : Memory) : Memory :=
  let idx := pcmIndex offset chan
  if clearFlag then writeSample idx y m else writeSample idx (clip (readSample m idx + y)) m

/-- The four trace writes of one frame, always an overwrite (20_memory.md R75, 44_render.md R303). -/
def traceWrite (offset : BitVec 32) (t : PerVoice Int) (digi : Int) (tr : Traces) : Traces where
  voice :=
    ⟨writeSample offset.toNat t.v0 tr.voice.v0, writeSample offset.toNat t.v1 tr.voice.v1,
      writeSample offset.toNat t.v2 tr.voice.v2⟩
  digi := writeSample offset.toNat digi tr.digi

/-! ### Chips -/

/-- `CHIP[i]`. -/
def State.chip (s : State) (i : Fin 10) : Chip := s.chips[i]

/-- `CHIP[i] <- c`. -/
def State.setChip (s : State) (i : Fin 10) (c : Chip) : State := { s with chips := s.chips.set i c }

/-- The chip indices 0 to 9 in index order. -/
def chipOrder : List (Fin 10) := [0, 1, 2, 3, 4, 5, 6, 7, 8, 9]

/-- The chip indices below `n`, in index order. -/
def chipsBelow (n : Nat) : List (Fin 10) := chipOrder.filter (fun i => decide (i.val < n))

/-- The configured instances, `i < N_USED` (10_state.md R53). -/
def activeChips (s : State) : List (Fin 10) := chipsBelow s.registry.nUsed.val

/-- The test every command but RESET and RESETALL makes of the chip it reaches (70_reset_and_hazards.md R388). -/
def onInitialised (i : Fin 10) (s : State) (k : Chip → Result) : Result :=
  if (s.chip i).life = .uninit then .refused .uninitialisedChip else k (s.chip i)

/-- Append a response word (30_encoding.md R104; entry 2). -/
def respond (w : BitVec 32) (s : State) : Result := .next { s with responses := s.responses ++ [w] }

end Sys2Proof.Machine
end

