-- ==== Sys2Proof/Machine/Operands.lean ====
section
/-! DEFINITION. Every operand form: the chip index of `SEL`, the bus address through `LUT`, the getters over the register
shadow, the open parameters with their bounds, the effective model of a slot. -/

namespace Sys2Proof.Machine

/-- The chip a `SEL` field names; 10 to 255 name none (30_encoding.md R103, R115). -/
def chipIndex (c : BitVec 8) : Option (Fin 10) := if h : c.toNat < 10 then some ⟨c.toNat, h⟩ else none

/-- A per-chip command: `absent` where `SEL` names no chip, refused at a chip never reset, else `k` at the chip
(60_exceptions.md R363 for the order of the tests). -/
def onChip (c : BitVec 8) (s : State) (absent : Result) (k : Fin 10 → Chip → Result) : Result :=
  match chipIndex c with
  | none => absent
  | some i => onInitialised i s (k i)

/-- The window of the lookup table that holds an address. -/
def LutWindow.holds (w : LutWindow) (a : Addr) : Bool :=
  decide (w.base.toNat ≤ a.toNat ∧ a.toNat < w.base.toNat + w.size)

/-- `LUT[addr]` (10_state.md R54, entry 11); none is `UNMAPPED`. -/
def lutChip (lut : List LutWindow) (a : Addr) : Option (Fin 10) := (lut.find? (fun w => w.holds a)).map (·.chip)

/-- The chip a bus address reaches: none outside 0xD000..0xDFFF or where `LUT` maps nothing (20_memory.md R63, R65). -/
def busChip (s : State) (a : Addr) : Option (Fin 10) :=
  if a.toNat < 0xD000 ∨ 0xDFFF < a.toNat then none else lutChip s.registry.lut a

/-- A bus command at the chip its address reaches (40_register_access.md R131, R156): `UnmappedAddress` before
`UninitialisedChip` (60_exceptions.md R363). -/
def onBus (a : Addr) (s : State) (k : Fin 10 → Chip → Result) : Result :=
  match busChip s a with
  | none => .refused .unmappedAddress
  | some i => onInitialised i s (k i)

/-! ### The accessor capability over the register shadow (10_state.md R27) -/

/-- `getFreq(v) = {REG[b+1], REG[b+0]}`. -/
def getFreq (c : Chip) (v : Voice) : BitVec 16 := (c.regs.get v).freqHi ++ (c.regs.get v).freqLo

/-- `getPulse(v) = {REG[b+3][3:0], REG[b+2]}`. -/
def getPulse (c : Chip) (v : Voice) : BitVec 12 := (c.regs.get v).pwHi.extractLsb' 0 4 ++ (c.regs.get v).pwLo

/-- `getWave(v) = REG[b+4]`. -/
def getWave (c : Chip) (v : Voice) : Byte := (c.regs.get v).wave

/-- `getAD(v) = REG[b+5]`. -/
def getAD (c : Chip) (v : Voice) : Byte := (c.regs.get v).ad

/-- `getSR(v) = REG[b+6]`. -/
def getSR (c : Chip) (v : Voice) : Byte := (c.regs.get v).sr

/-! ### Open parameters with the bounds the spec sets (00_scope.md R10, entry 6) -/

/-- `VOLMAP[n]`; 92_eei_decisions.md D14 requires `VOLMAP[0] = 255`. -/
def volMap (n : Fin 10) : Byte := if n = 0 then 255 else Config.volMapRest n

/-- `DAC_OFFSET[m]`, positive for the 6581. -/
def dacOffset : ChipModel → Int
  | .mos6581 => Config.dacOffset6581Less1 + 1
  | .mos8580 => Config.dacOffset8580

/-- `OUT_DIV`, a positive integer. -/
def outDiv : Int := Config.outDivLess1 + 1

/-- The model a one-bit flag names: 1 is the 6581 (10_state.md R24). -/
def modelOfBit (b : Bool) : ChipModel := if b then .mos6581 else .mos8580

/-- `CFG_ADDR[i]`; slot 0 reads 0xD400 whatever was written (10_state.md R52). -/
def cfgAddr (r : Registry) (i : Fin 10) : Addr := if i = 0 then chip0Base else (r.slots[i]).addr

/-- The effective model of slot `i` (45_registry.md R342). -/
def effModel (r : Registry) (i : Fin 10) : ChipModel :=
  let slot := r.slots[i]
  if slot.ovr = 1 then .mos6581 else if slot.ovr = 2 then .mos8580 else modelOfBit slot.m6581

/-- A level scaled by `S / 255`, truncated toward zero (44_render.md R294, R299, R309). -/
def scaleBy (x : Int) (scale : Byte) : Int := tdiv (x * scale.toNat) 255

/-- A level brought to output units by the master volume (44_render.md R297). -/
def volumeLevel (x : Int) (vol : BitVec 4) : Int := tdiv (x * vol.toNat) outDiv

end Sys2Proof.Machine
end

