-- ==== Sys2Proof/Machine/Flags.lean ====
section
/-! DEFINITION. The one-bit status of a chip (10_state.md R56): what sets, clears and tests each flag. The block has no
condition codes. -/

namespace Sys2Proof.Machine

/-- `LP = BP = HP = 0`: the Filter's modes are all disabled (42_filter.md R194). -/
def modesOff (f : Filter) : Bool := !f.lp && !f.bp && !f.hp

/-- `isSilencedVoice3(v)` (42_filter.md R192). -/
def isSilencedVoice3 (f : Filter) (v : Voice) : Bool := decide (v = .v2) && !f.filt.get .v2 && f.v3off

/-- `restoreMutes()` (43_digi_detector.md R224): unmute what the detector muted. -/
def restoreMutes (c : Chip) : Chip :=
  let free (muted mute : Bool) : Bool := if muted then false else mute
  { c with
    mute := ⟨free c.det.muted.v0 c.mute.v0, free c.det.muted.v1 c.mute.v1, free c.det.muted.v2 c.mute.v2⟩
    det := { c.det with muted := perVoice false } }

/-- `MUTE[v] <- 1; DD_MUTED[v] <- 1` (43_digi_detector.md R227). -/
def muteVoice (v : Voice) (c : Chip) : Chip :=
  { c with mute := c.mute.set v true, det := { c.det with muted := c.det.muted.set v true } }

/-- `MUTE[v] <- 1; DD_MUTED[v] <- 1` for every voice (43_digi_detector.md R253). -/
def muteAllVoices (c : Chip) : Chip :=
  { c with mute := perVoice true, det := { c.det with muted := perVoice true } }

/-- `within(ts, T)` (43_digi_detector.md R228), modulo 2^32 (10_state.md R32). -/
def within (cyc ts : BitVec 32) (timeout : Nat) : Bool := decide ((cyc - ts).toNat < timeout)

/-- `FILT[0..2]` from a byte written to 0x17 (40_register_access.md R147); bit 3 is ignored. -/
def routingBits (val : Byte) : PerVoice Bool := ⟨val.getLsbD 0, val.getLsbD 1, val.getLsbD 2⟩

/-- `LP`, `BP`, `HP`, `V3OFF` from a byte written to 0x18 (40_register_access.md R148). -/
def setModeBits (val : Byte) (f : Filter) : Filter :=
  { f with lp := val.getLsbD 4, bp := val.getLsbD 5, hp := val.getLsbD 6, v3off := val.getLsbD 7 }

end Sys2Proof.Machine
end

