-- ==== Sys2Proof/Machine/Filter.lean ====
section
/-! DEFINITION. The Filter's internal operations (42_filter.md) and the register writes that set its fields
(40_register_access.md R144 to R148). -/

namespace Sys2Proof.Machine

/-- The running sums of a tick, filtered and unfiltered (10_state.md R55): scratch, not state. -/
structure Sums where
  f : Int
  u : Int
deriving DecidableEq, Repr

/-- `routeSignal(x, f, u, v)`: the sums after it (42_filter.md R191). -/
def routeSignal (flt : Filter) (x : Int) (sm : Sums) (v : Voice) : Sums :=
  if flt.filt.get v then { sm with f := sm.f + x }
  else if isSilencedVoice3 flt v then sm
  else { sm with u := sm.u + x }

/-- What `routeSignal` returns, `isFiltered` (42_filter.md R191); no host command sees it (30_encoding.md R104). -/
def isFiltered (flt : Filter) (v : Voice) : Bool := flt.filt.get v

/-- The live arguments of the transfer function (42_filter.md R195). -/
def filterArgs (c : Chip) : FilterArgs :=
  ⟨c.model, c.filter.cutoff, c.filter.res, c.filter.lp, c.filter.bp, c.filter.hp, c.srate⟩

/-- The sample `getOutput(f, u)` returns (42_filter.md R193, R194). -/
def outputLevel (c : Chip) (sm : Sums) : Int :=
  if modesOff c.filter then sm.f + sm.u else (Config.filterXfer (filterArgs c) c.filter.fh sm.f).1 + sm.u

/-- The state `getOutput(f, u)` leaves: `FH`, where a mode is on (42_filter.md R193). -/
def outputState (c : Chip) (sm : Sums) : Chip :=
  if modesOff c.filter then c
  else { c with filter := { c.filter with fh := (Config.filterXfer (filterArgs c) c.filter.fh sm.f).2 } }

/-- Does `simOutput` run the transfer function for voice `v` (42_filter.md R196)? -/
def simRuns (f : Filter) (v : Voice) : Bool := f.filt.get v && !modesOff f

/-- The scaled sample `simOutput(v, x)` returns (42_filter.md R196). -/
def simLevel (c : Chip) (v : Voice) (x : Int) : Int :=
  let o :=
    if simRuns c.filter v then (Config.filterXfer (filterArgs c) (c.filter.fs.get v) x).1
    else if isSilencedVoice3 c.filter v then 0
    else x
  clip (volumeLevel o c.vol)

/-- The state `simOutput(v, x)` leaves: `FS[v]`, where it ran the transfer function (42_filter.md R196). -/
def simState (c : Chip) (v : Voice) (x : Int) : Chip :=
  if simRuns c.filter v then
    { c with filter :=
        { c.filter with fs := c.filter.fs.set v (Config.filterXfer (filterArgs c) (c.filter.fs.get v) x).2 } }
  else c

/-- `FH` and every `FS[v]` to (0, 0, 0): the flush of the cached history (40_register_access.md R148, 45_registry.md
R345). -/
def flushHistory (f : Filter) : Filter := { f with fh := zeroHist, fs := perVoice zeroHist }

/-- `Filter.poke` at 0x15 (40_register_access.md R145): `CUTOFF[2:0]`. -/
def pokeFcLo (val : Byte) (f : Filter) : Filter := { f with cutoff := f.cutoff.extractLsb' 3 8 ++ val.extractLsb' 0 3 }

/-- `Filter.poke` at 0x16 (R146): `CUTOFF[10:3]`. -/
def pokeFcHi (val : Byte) (f : Filter) : Filter := { f with cutoff := val ++ f.cutoff.extractLsb' 0 3 }

/-- `Filter.poke` at 0x17 (R147): the routing bits and the resonance. -/
def pokeResFilt (val : Byte) (f : Filter) : Filter := { f with filt := routingBits val, res := val.extractLsb' 4 4 }

/-- `Filter.poke` at 0x18 (R148): the mode bits, and the flush where all three are 0. -/
def pokeMode (val : Byte) (f : Filter) : Filter :=
  let f' := setModeBits val f
  if modesOff f' then flushHistory f' else f'

end Sys2Proof.Machine
end

