-- ==== Sys2Proof/Machine/Detector.lean ====
section
/-! DEFINITION. The DigiDetector (43_digi_detector.md): `detectSample` and its algorithms, `routeDigiSignal`, the PSID
player, and the meanings of DIGI_CTRL and DIGI_QUERY. Each detection step answers the chip it leaves and whether the
write was consumed (R217). -/

namespace Sys2Proof.Machine

/-! ### Shared helpers -/

/-- `setSource(type, src)` (R225). -/
def setSource (type : DigiType) (src : DigiSrc) (c : Chip) : Chip :=
  if c.det.type ≠ type ∨ c.det.src ≠ src then
    let c' := restoreMutes c
    { c' with det := { c'.det with count := 0, type := type, src := src } }
  else c

/-- `min(DD_COUNT + 1, 2^32 - 1)` (R226). -/
def saturatingSucc (n : BitVec 32) : BitVec 32 := if n = BitVec.allOnes 32 then n else n + 1

/-- `record(s)` (R226). -/
def recordSample (s : Byte) (c : Chip) : Chip :=
  { c with det := { c.det with sample := s, count := saturatingSucc c.det.count } }

/-- `capture(type, v, s)` (R227). -/
def capture (type : DigiType) (v : Voice) (s : Byte) (c : Chip) : Chip :=
  muteVoice v (recordSample s (setSource type (.voice v) c))

/-- `FM[v] <- f`. -/
def setFm (v : Voice) (f : FmRec) (c : Chip) : Chip := { c with det := { c.det with fm := c.det.fm.set v f } }

/-- `PW[v] <- f`. -/
def setPw (v : Voice) (p : PwRec) (c : Chip) : Chip := { c with det := { c.det with pw := c.det.pw.set v p } }

/-- `SW[v] <- k`. -/
def setSw (v : Voice) (k : Option SwallowScheme) (c : Chip) : Chip :=
  { c with det := { c.det with sw := c.det.sw.set v k } }

/-! ### The bytes the automata compare against (30_encoding.md R109, 43_digi_detector.md R229) -/

/-- "triangle+gate". -/
def triGate : Byte := 0x11
/-- "test+gate". -/
def testGate : Byte := 0x09
/-- "gate-only". -/
def gateOnly : Byte := 0x01
/-- "PULSE+TEST+GATE". -/
def pulseTestGate : Byte := 0x49
/-- Pulse and gate, the closing step of PWM-test. -/
def pulseGate : Byte := 0x41

/-! ### FM (R230, R231) -/

/-- `fmDetect(v, 4, val)` (R230). -/
def fmOnWave (v : Voice) (val : Byte) (c : Chip) : Chip × Bool :=
  let m := c.det.fm.get v
  let inTime := within c.cyc m.ts Config.fmTimeout
  let idled := setFm v { m with phase := .idle } c
  let moved (p : FmPhase) := setFm v { m with phase := p, ts := c.cyc } c
  if val = triGate then (moved .prep, false)
  else if val = testGate then
    if m.phase = .prep ∧ inTime then (moved .set, false) else (idled, false)
  else if val = gateOnly then
    if m.phase = .set ∧ inTime then (moved .variant1, false)
    else if m.phase = .variant2 ∧ inTime then (capture .fm v m.pend idled, true)
    else (idled, false)
  else (idled, false)

/-- `fmDetect(v, 1, val)` (R231). -/
def fmOnFreqHi (v : Voice) (val : Byte) (c : Chip) : Chip × Bool :=
  let m := c.det.fm.get v
  let inTime := within c.cyc m.ts Config.fmTimeout
  let idled := setFm v { m with phase := .idle } c
  match m.phase with
  | .set => if inTime then (setFm v ⟨.variant2, c.cyc, val⟩ c, false) else (idled, false)
  | .variant1 => if inTime then (capture .fm v val idled, true) else (idled, false)
  | .idle | .prep | .variant2 => (c, false)

/-- `fmDetect(v, r, val)`: registers other than 1 and 4 change nothing (R230). -/
def fmDetect (v : Voice) (r : Nat) (val : Byte) (c : Chip) : Chip × Bool :=
  match r with
  | 1 => fmOnFreqHi v val c
  | 4 => fmOnWave v val c
  | _ => (c, false)

/-! ### PWM-test (R240, R241) -/

/-- `pwmDetect(v, 4, val)` (R240). -/
def pwmOnWave (v : Voice) (val : Byte) (c : Chip) : Chip × Bool :=
  let m := c.det.pw.get v
  let inTime := within c.cyc m.ts Config.pwmTimeout
  let idled := setPw v { m with phase := .idle } c
  let moved (p : PwPhase) := setPw v { m with phase := p, ts := c.cyc } c
  if val = pulseTestGate then
    if m.phase = .prepA ∧ inTime then (moved .confirmA, false) else (moved .prepB, false)
  else if val = pulseGate then
    if (m.phase = .confirmA ∨ m.phase = .confirmB) ∧ inTime then (capture .pwm v m.pend idled, true) else (idled, false)
  else (idled, false)

/-- `pwmDetect(v, 2, val)` (R241): it never consumes. -/
def pwmOnPwLo (v : Voice) (val : Byte) (c : Chip) : Chip × Bool :=
  let m := c.det.pw.get v
  if m.phase = .prepB ∧ within c.cyc m.ts Config.pwmTimeout then (setPw v ⟨.confirmB, c.cyc, val⟩ c, false)
  else (setPw v ⟨.prepA, c.cyc, val⟩ c, false)

/-- `pwmDetect(v, r, val)`: registers other than 2 and 4 change nothing (R241). -/
def pwmDetect (v : Voice) (r : Nat) (val : Byte) (c : Chip) : Chip × Bool :=
  match r with
  | 2 => pwmOnPwLo v val c
  | 4 => pwmOnWave v val c
  | _ => (c, false)

/-! ### Swallow (R247 to R249) -/

/-- `swEnv(v)` (R247). -/
def swEnv (c : Chip) (v : Voice) : Bool := decide (getAD c v = 0x00 ∧ getSR c v = 0xF0)

/-- The smallest `k` whose signature is the voice's pulse width and frequency (R248). -/
def matchSignature (c : Chip) (v : Voice) : Option SwallowScheme :=
  [SwallowScheme.k1, .k2, .k3].find? (fun k => decide (Config.swallowSig k = (getPulse c v, getFreq c v)))

/-- `swallowDetect(v, 4, val)`: arming (R248). -/
def swallowOnWave (v : Voice) (val : Byte) (c : Chip) : Chip × Bool :=
  if swEnv c v ∧ Config.swallowTrans (getWave c v) val then (setSw v (matchSignature c v) c, false) else (c, false)

/-- `swallowDetect(v, r, val)` for the pulse-width registers: capture (R249). -/
def swallowOnPulse (v : Voice) (r : PulseReg) (val : Byte) (c : Chip) : Chip × Bool :=
  match c.det.sw.get v with
  | none => (c, false)
  | some k =>
    if swEnv c v then
      match Config.swallowUnpack k r val with
      | none => (c, false)
      | some s => (capture .swallow v s c, true)
    else (setSw v none c, false)

/-- `swallowDetect(v, r, val)`: registers other than 2, 3 and 4 change nothing (R249). -/
def swallowDetect (v : Voice) (r : Nat) (val : Byte) (c : Chip) : Chip × Bool :=
  match r with
  | 2 => swallowOnPulse v .lo val c
  | 3 => swallowOnPulse v .hi val c
  | 4 => swallowOnWave v val c
  | _ => (c, false)

/-! ### D418 and Mahoney (R253 to R256) -/

/-- `isMahoney()`, the five conditions (R255). -/
def isMahoney (c : Chip) : Bool :=
  decide
    ((c.filter.filt.v0 = true ∧ c.filter.filt.v1 = true ∧ c.filter.filt.v2 = false)
      ∧ c.filter.cutoff = 0x7FF
      ∧ (getSR c .v0 = getSR c .v1 ∧ getSR c .v1 = getSR c .v2)
      ∧ 0xFB ≤ (getSR c .v0).toNat
      ∧ (getWave c .v0 = pulseTestGate ∧ getWave c .v1 = pulseTestGate ∧ getWave c .v2 = pulseTestGate))

/-- The 4-bit sample of a volume write widened to a byte, `val[3:0] × 0x11` (R253). -/
def volumeSample (val : Byte) : Byte := val.extractLsb' 0 4 ++ val.extractLsb' 0 4

/-- Does a voice technique hold the source, `DD_SRC` in 1 to 3 (R254)? -/
def voiceHoldsSource (src : DigiSrc) : Bool :=
  match src with
  | .voice _ => true
  | .unused | .volume => false

/-- `d418Detect(val)` (R253). -/
def d418Detect (val : Byte) (c : Chip) : Chip × Bool :=
  if isMahoney c then (recordSample (Config.mahoneyTable val) (muteAllVoices (setSource .m418 .volume c)), true)
  else if voiceHoldsSource c.det.src then (c, false)
  else (recordSample (volumeSample val) (setSource .d418 .volume c), true)

/-! ### The PSID latches (R263, R264) -/

/-- `PSID_MAP` (R262): a bus address, 0xD000 to 0xDFFF, whose offset is none of the 25 mapped ones (20_memory.md R61,
R71). -/
def psidMap (r : PsidReg) : Addr :=
  0xD#4 ++ Config.psidWindow r ++ BitVec.ofNat 5 (0x19 + (Config.psidOffset r).val)

/-- `PSID_MAP` in the order R263 lists it: the first match decides (entry 16). -/
def psidOrder : List PsidReg :=
  [.startLo, .startHi, .endLo, .endHi, .repAddrLo, .repAddrHi, .periodLo, .periodHi, .order, .repCnt, .control]

/-- The pseudo-register at a full 16-bit address (R263). -/
def psidRegAt (a : Addr) : Option PsidReg := psidOrder.find? (fun r => decide (psidMap r = a))

/-- Replace the low byte of a 16-bit latch. -/
def withLowByte (w : BitVec 16) (b : Byte) : BitVec 16 := w.extractLsb' 8 8 ++ b

/-- Replace the high byte of a 16-bit latch. -/
def withHighByte (w : BitVec 16) (b : Byte) : BitVec 16 := b ++ w.extractLsb' 0 8

/-- `PD_STEP` at a start: `min(2^32 - 1, (CRATE × 65536) div (PR_PERIOD × SRATE))` (R264). -/
def psidStep (crate srate : BitVec 32) (period : BitVec 16) : BitVec 32 :=
  BitVec.ofNat 32 (min (2 ^ 32 - 1) (crate.toNat * 65536 / (period.toNat * srate.toNat)))

/-- `psidControl(val)` (R264). -/
def psidControl (val : Byte) (crate srate : BitVec 32) (p : Psid) : Psid :=
  if val = 0xFD then { p with pdActive := false }
  else if val = 0xFF ∨ val = 0xFE then
    if p.prPeriod = 0 then { p with pdActive := false }
    else
      { p with
        pdCur := p.prStart, pdPos := 0, pdCnt := p.prRepCnt, pdStep := psidStep crate srate p.prPeriod,
        pdActive := true }
  else p

/-- The latch a pseudo-register write changes (R263). -/
def psidWrite (r : PsidReg) (val : Byte) (crate srate : BitVec 32) (p : Psid) : Psid :=
  match r with
  | .startLo => { p with prStart := withLowByte p.prStart val }
  | .startHi => { p with prStart := withHighByte p.prStart val }
  | .endLo => { p with prEnd := withLowByte p.prEnd val }
  | .endHi => { p with prEnd := withHighByte p.prEnd val }
  | .repAddrLo => { p with prRepAddr := withLowByte p.prRepAddr val }
  | .repAddrHi => { p with prRepAddr := withHighByte p.prRepAddr val }
  | .periodLo => { p with prPeriod := withLowByte p.prPeriod val }
  | .periodHi => { p with prPeriod := withHighByte p.prPeriod val }
  | .order => { p with prOrder := val }
  | .repCnt => { p with prRepCnt := val }
  | .control => psidControl val crate srate p

/-- The player after a write to a bus address (R263); it changes only where `REALFILE = 0` (R261). -/
def psidLatched (addr : Addr) (val : Byte) (c : Chip) : Psid :=
  if c.realFile then c.det.psid
  else
    match psidRegAt addr with
    | none => c.det.psid
    | some r => psidWrite r val c.crate c.srate c.det.psid

/-- `psidLatch(addr, val)` (R263). -/
def psidLatch (addr : Addr) (val : Byte) (c : Chip) : Chip :=
  { c with det := { c.det with psid := psidLatched addr val c } }

/-! ### `detectSample` (R216) -/

/-- The three voice algorithms in priority order; the chain stops at the first that consumes (R216). -/
def detectVoice (v : Voice) (r : Nat) (val : Byte) (c : Chip) : Chip × Bool :=
  let a := fmDetect v r val c
  if a.2 then a
  else
    let b := pwmDetect v r val a.1
    if b.2 then b else swallowDetect v r val b.1

/-- The dispatch of an enabled detector by register offset (R216). -/
def detectAt (reg : Nat) (val : Byte) (c : Chip) : Chip × Bool :=
  if reg ≤ 20 then detectVoice (voiceOfIndex (reg / 7)) (reg % 7) val c
  else if reg = 0x18 then d418Detect val c
  else (c, false)

/-- `detectSample(addr, val)` (R216): a disabled detector sees nothing. -/
def detectSample (addr : Addr) (val : Byte) (c : Chip) : Chip × Bool :=
  if c.det.en then detectAt (regOf addr).toNat val (psidLatch addr val c) else (c, false)

/-! ### `routeDigiSignal` (R260) -/

/-- The latched sample as a level, `DD_SAMPLE × 0x101 - 0x8000` (R260). -/
def digiLevel (sample : Byte) : Int := (sample.toNat : Int) * 0x101 - 0x8000

/-- Is the digi signal off: detector disabled or no source (R260)? -/
def digiOff (d : Detector) : Bool := !d.en || decide (d.src = .unused)

/-- `d`, the scaled digi level (R260). -/
def digiScaled (d : Detector) (scale : Byte) : Int :=
  if digiOff d then 0 else scaleBy (digiLevel d.sample * Config.digiGain) scale

/-- The voice the digi stands in for, `sourceVoiceOrNone` (R260). -/
def digiVoice (d : Detector) : Option Voice :=
  if d.en then
    match d.src with
    | .voice v => some v
    | .unused | .volume => none
  else none

/-- The tick's sums after `routeDigiSignal` (R260): a voice technique goes where the voice would have gone. -/
def routeDigi (c : Chip) (sm : Sums) (scale : Byte) : Sums :=
  if digiOff c.det then sm
  else
    match digiVoice c.det with
    | none => { sm with u := sm.u + digiScaled c.det scale }
    | some v => routeSignal c.filter (digiScaled c.det scale) sm v

/-! ### The PSID player (R266) -/

/-- `nib = PD_POS >> 16`. -/
def psidNibble (p : Psid) : Nat := p.pdPos.toNat / 65536

/-- `a = (PD_CUR + (nib >> 1)) mod 2^16`. -/
def psidAddr (p : Psid) : Addr := p.pdCur + BitVec.ofNat 16 (psidNibble p / 2)

/-- The player at a finished segment (R266): stop, or restart at `PR_REPADDR` with one repeat fewer. -/
def psidRestart (p : Psid) : Psid :=
  if p.pdCnt = 0 then { p with pdActive := false }
  else
    let p' :=
      { p with pdCnt := if p.pdCnt = 0xFF then p.pdCnt else p.pdCnt - 1, pdCur := p.prRepAddr, pdPos := 0 }
    if p.prEnd.toNat ≤ p.prRepAddr.toNat then { p' with pdActive := false } else p'

/-- The player with its segment settled for this tick: restarted or stopped where the address has reached `PR_END`. -/
def psidSettle (p : Psid) : Psid := if p.prEnd.toNat ≤ (psidAddr p).toNat then psidRestart p else p

/-- The nibble of a byte that `PR_ORDER` and the nibble number select (R266). -/
def psidPick (order : Byte) (nib : Nat) (b : Byte) : BitVec 4 :=
  if decide (order = 0) = decide (nib % 2 = 0) then b.extractLsb' 0 4 else b.extractLsb' 4 4

/-- Does the player run at all this tick: `REALFILE = 0`, detector enabled, `PD_ACTIVE = 1` (R261, R266)? -/
def psidRuns (c : Chip) : Bool := !c.realFile && c.det.en && c.det.psid.pdActive

/-- Does the player sound, that is, read RAM, this tick: it runs and its segment does not end it? -/
def psidSounds (c : Chip) : Bool := psidRuns c && (psidSettle c.det.psid).pdActive

/-- `psidSample()`: the level it returns, given how many RAM bytes were read before (R266, entry 7). -/
def psidLevel (reads : Nat) (c : Chip) : Int :=
  if psidSounds c then
    let p := psidSettle c.det.psid
    ((psidPick p.prOrder (psidNibble p) (Config.ramRead reads (psidAddr p))).toNat : Int) * 0x1111 - 0x8000
  else 0

/-- `psidSample()`: the chip it leaves (R266). -/
def psidAdvance (c : Chip) : Chip :=
  if psidRuns c then
    let p := psidSettle c.det.psid
    { c with det :=
        { c.det with psid := if p.pdActive then { p with pdPos := p.pdPos + p.pdStep.setWidth 48 } else p } }
  else c

/-- `psidSample()`: how many RAM bytes have been read after it. -/
def psidReads (reads : Nat) (c : Chip) : Nat := if psidSounds c then reads + 1 else reads

/-! ### Detector lifecycle (R272, R273, R275) -/

/-- `resetCount()` (R272). -/
def resetCount (c : Chip) : Chip :=
  if c.det.count = 0 ∧ c.det.type ≠ .none then
    let c' := restoreMutes c
    { c' with det := { c'.det with type := .none, src := .unused, count := 0 } }
  else { c with det := { c.det with count := 0 } }

/-- `setEnabled(false)` (R273). -/
def disableDetector (c : Chip) : Chip :=
  let c' := restoreMutes c
  { c' with det :=
      { c'.det with
        type := .none, src := .unused, count := 0, fm := perVoice idleFm, pw := perVoice idlePw, sw := perVoice none,
        psid := { c'.det.psid with pdActive := false }, en := false } }

/-- `setEnabled(true)` (R273). -/
def enableDetector (c : Chip) : Chip := { c with det := { c.det with en := true } }

/-- The detector's fields after a detector reset (R275, 10_state.md R60). -/
def resetDetectorFields : Detector :=
  ⟨true, .none, .unused, 0x80, 0, perVoice false, perVoice idleFm, perVoice idlePw, perVoice none, zeroPsid⟩

/-- Detector reset (R275). -/
def detectorReset (c : Chip) : Chip := { restoreMutes c with det := resetDetectorFields }

/-- DIGI_CTRL at a chip (R274): `LIFE` is not moved, there is no response. -/
def digiCtrl (c : BitVec 8) (s : State) (f : Chip → Chip) : Result :=
  onChip c s (.next s) (fun i chip => .next (s.setChip i (f chip)))

/-- The code of a digi type (10_state.md R43, 30_encoding.md R113). -/
def digiTypeCode : DigiType → BitVec 32
  | .none => 0
  | .fm => 1
  | .pwm => 2
  | .swallow => 3
  | .d418 => 4
  | .m418 => 5

/-- `getRate()` (R277). -/
def digiRate (d : Detector) : BitVec 32 :=
  if d.type ≠ .none ∧ Config.digiMinCount ≤ d.count.toNat then d.count else 0

/-- DIGI_QUERY at a chip (R276): response 0 where there is no such chip; no state but the response is written. -/
def digiQuery (c : BitVec 8) (s : State) (f : Detector → BitVec 32) : Result :=
  onChip c s (respond 0 s) (fun _ chip => respond (f chip.det) s)

/-! ### Meanings -/

/-- `DIGI_CTRL.RESETCOUNT` (R272, R274). -/
def execDigiCtrlResetCount (c : BitVec 8) (s : State) : Result := digiCtrl c s resetCount

/-- `DIGI_CTRL.DISABLE` (R273, R274). -/
def execDigiCtrlDisable (c : BitVec 8) (s : State) : Result := digiCtrl c s disableDetector

/-- `DIGI_CTRL.ENABLE` (R273, R274). -/
def execDigiCtrlEnable (c : BitVec 8) (s : State) : Result := digiCtrl c s enableDetector

/-- `DIGI_CTRL.RESET` (R275, R274). -/
def execDigiCtrlReset (c : BitVec 8) (s : State) : Result := digiCtrl c s detectorReset

/-- `DIGI_QUERY.TYPE` (R276). -/
def execDigiQueryType (c : BitVec 8) (s : State) : Result := digiQuery c s (fun d => digiTypeCode d.type)

/-- `DIGI_QUERY.RATE` (R277). -/
def execDigiQueryRate (c : BitVec 8) (s : State) : Result := digiQuery c s digiRate

/-- `DIGI_QUERY.DESC` (R278): the code that stands for the description string. -/
def execDigiQueryDesc (c : BitVec 8) (s : State) : Result := digiQuery c s (fun d => digiTypeCode d.type)

/-- `DIGI_QUERY.RESERVED` (30_encoding.md R113, R115): response 0; refused at a chip never reset (R388, entry 13). -/
def execDigiQueryReserved (c : BitVec 8) (s : State) : Result := digiQuery c s (fun _ => 0)

end Sys2Proof.Machine
end

