-- ==== Sys2Proof/Machine/Bus.lean ====
section
/-! DEFINITION. Register access (40_register_access.md): the steps common to every WRITE, what each register's write does,
READ and PEEK, and their meanings. -/

namespace Sys2Proof.Machine

/-- WRITE up to the dispatch (R131): `LIFE`, the detector on the state from before the write (43_digi_detector.md R218),
the bus latch; then the register's own rule `poke`. -/
def writeChip (addr : Addr) (val : Byte) (poke : Chip → Chip) (c : Chip) : Chip :=
  let d := (detectSample addr val { c with life := .active }).1
  poke { d with bus := val }

/-- WRITE of a byte to a bus address, `poke` the rule of the register it names (R131, R132). -/
def writeBus (addr : Addr) (val : Byte) (poke : Chip → Chip) (s : State) : Result :=
  onBus addr s fun i chip => .next (s.setChip i (writeChip addr val poke chip))

/-- Change the registers of voice `v` in the shadow (R133). -/
def setRegs (v : Voice) (f : VoiceRegs → VoiceRegs) (c : Chip) : Chip :=
  { c with regs := c.regs.set v (f (c.regs.get v)) }

/-- `OSC[v] <- oscWrite(OSC[v], r, val)`. -/
def oscPoke (v : Voice) (r : OscReg) (val : Byte) (c : Chip) : Chip :=
  { c with osc := c.osc.set v (Config.oscWrite (c.osc.get v) r val) }

/-- `ENV[v] <- envWrite(ENV[v], r, val)`. -/
def envPoke (v : Voice) (r : EnvReg) (val : Byte) (c : Chip) : Chip :=
  { c with env := c.env.set v (Config.envWrite (c.env.get v) r val) }

/-- The Filter's part of a write. -/
def filterPoke (f : Filter → Filter) (c : Chip) : Chip := { c with filter := f c.filter }

/-- R135. -/
def pokeFreqLo (v : Voice) (val : Byte) (c : Chip) : Chip :=
  oscPoke v .freqLo val (setRegs v (fun r => { r with freqLo := val }) c)

/-- R136. -/
def pokeFreqHi (v : Voice) (val : Byte) (c : Chip) : Chip :=
  oscPoke v .freqHi val (setRegs v (fun r => { r with freqHi := val }) c)

/-- R137. -/
def pokePwLo (v : Voice) (val : Byte) (c : Chip) : Chip :=
  oscPoke v .pwLo val (setRegs v (fun r => { r with pwLo := val }) c)

/-- R138. -/
def pokePwHi (v : Voice) (val : Byte) (c : Chip) : Chip :=
  oscPoke v .pwHi val (setRegs v (fun r => { r with pwHi := val }) c)

/-- R139: the waveform register goes to the oscillator and to the envelope. -/
def pokeWave (v : Voice) (val : Byte) (c : Chip) : Chip :=
  envPoke v .wave val (oscPoke v .wave val (setRegs v (fun r => { r with wave := val }) c))

/-- R140. -/
def pokeAd (v : Voice) (val : Byte) (c : Chip) : Chip :=
  envPoke v .ad val (setRegs v (fun r => { r with ad := val }) c)

/-- R141. -/
def pokeSr (v : Voice) (val : Byte) (c : Chip) : Chip :=
  envPoke v .sr val (setRegs v (fun r => { r with sr := val }) c)

/-- R148: the Filter's mode bits, and the master volume. -/
def pokeModeVol (val : Byte) (c : Chip) : Chip := { filterPoke (pokeMode val) c with vol := val.extractLsb' 0 4 }

/-- R149: nothing. -/
def pokeUnmapped (c : Chip) : Chip := c

/-- A read of a bus address answering the byte `f` gives (R156); no state of the block changes (R158). -/
def readBusWith (addr : Addr) (f : Chip → Byte) (s : State) : Result :=
  onBus addr s fun _ chip => respond ((f chip).setWidth 32) s

/-- The live oscillator output of voice index 2 (R160). -/
def liveOsc3 (c : Chip) : Byte := Config.osc3Read c.osc.v2

/-- The live envelope output of voice index 2 (R161). -/
def liveEnv3 (c : Chip) : Byte := Config.env3Read c.env.v2

/-! ### Meanings -/

/-- `WRITE.FREQ_LO` (R135). -/
def execWriteFreqLo (win : BitVec 11) (v : Voice) (val : Byte) (s : State) : Result :=
  writeBus (busAddr win (voiceReg v 0)) val (pokeFreqLo v val) s

/-- `WRITE.FREQ_HI` (R136). -/
def execWriteFreqHi (win : BitVec 11) (v : Voice) (val : Byte) (s : State) : Result :=
  writeBus (busAddr win (voiceReg v 1)) val (pokeFreqHi v val) s

/-- `WRITE.PW_LO` (R137). -/
def execWritePwLo (win : BitVec 11) (v : Voice) (val : Byte) (s : State) : Result :=
  writeBus (busAddr win (voiceReg v 2)) val (pokePwLo v val) s

/-- `WRITE.PW_HI` (R138). -/
def execWritePwHi (win : BitVec 11) (v : Voice) (val : Byte) (s : State) : Result :=
  writeBus (busAddr win (voiceReg v 3)) val (pokePwHi v val) s

/-- `WRITE.WAVE` (R139). -/
def execWriteWave (win : BitVec 11) (v : Voice) (val : Byte) (s : State) : Result :=
  writeBus (busAddr win (voiceReg v 4)) val (pokeWave v val) s

/-- `WRITE.AD` (R140). -/
def execWriteAd (win : BitVec 11) (v : Voice) (val : Byte) (s : State) : Result :=
  writeBus (busAddr win (voiceReg v 5)) val (pokeAd v val) s

/-- `WRITE.SR` (R141). -/
def execWriteSr (win : BitVec 11) (v : Voice) (val : Byte) (s : State) : Result :=
  writeBus (busAddr win (voiceReg v 6)) val (pokeSr v val) s

/-- `WRITE.FC_LO` (R145). -/
def execWriteFcLo (win : BitVec 11) (val : Byte) (s : State) : Result :=
  writeBus (busAddr win 0x15) val (filterPoke (pokeFcLo val)) s

/-- `WRITE.FC_HI` (R146). -/
def execWriteFcHi (win : BitVec 11) (val : Byte) (s : State) : Result :=
  writeBus (busAddr win 0x16) val (filterPoke (pokeFcHi val)) s

/-- `WRITE.RES_FILT` (R147). -/
def execWriteResFilt (win : BitVec 11) (val : Byte) (s : State) : Result :=
  writeBus (busAddr win 0x17) val (filterPoke (pokeResFilt val)) s

/-- `WRITE.MODE_VOL` (R148). -/
def execWriteModeVol (win : BitVec 11) (val : Byte) (s : State) : Result :=
  writeBus (busAddr win 0x18) val (pokeModeVol val) s

/-- `WRITE.UNMAPPED` (R149). -/
def execWriteUnmapped (addr : Addr) (val : Byte) (s : State) : Result := writeBus addr val pokeUnmapped s

/-- `READ.BUS` (R159). -/
def execReadBus (addr : Addr) (s : State) : Result := readBusWith addr (fun c => c.bus) s

/-- `READ.OSC3` (R160). -/
def execReadOsc3 (win : BitVec 11) (s : State) : Result := readBusWith (busAddr win 0x1B) liveOsc3 s

/-- `READ.ENV3` (R161). -/
def execReadEnv3 (win : BitVec 11) (s : State) : Result := readBusWith (busAddr win 0x1C) liveEnv3 s

/-- `PEEK.BUS` (R157, R159). -/
def execPeekBus (addr : Addr) (s : State) : Result := readBusWith addr (fun c => c.bus) s

/-- `PEEK.OSC3` (R157, R160). -/
def execPeekOsc3 (win : BitVec 11) (s : State) : Result := readBusWith (busAddr win 0x1B) liveOsc3 s

/-- `PEEK.ENV3` (R157, R161). -/
def execPeekEnv3 (win : BitVec 11) (s : State) : Result := readBusWith (busAddr win 0x1C) liveEnv3 s

end Sys2Proof.Machine
end

