-- ==== Sys2Proof/Machine/Clock.lean ====
section
/-! DEFINITION. CLOCK and CLOCKALL (41_clock.md). -/

namespace Sys2Proof.Machine

/-- One cycle of one chip (R181): every oscillator's phase-1 advance, then hard sync over the three results, then every
envelope, then `CYC`. -/
def clockChip (c : Chip) : Chip :=
  { c with
    life := .active
    osc := Config.oscSync (c.osc.map Config.oscClock1)
    env := c.env.map Config.envClock
    cyc := c.cyc + 1 }

/-- CLOCK at a chip index (R181), refused at a chip never reset. -/
def clockAt (i : Fin 10) (s : State) : Result := onInitialised i s fun chip => .next (s.setChip i (clockChip chip))

/-- `CLOCK` (R181). -/
def execClock (c : BitVec 8) (s : State) : Result :=
  match chipIndex c with
  | none => .next s
  | some i => clockAt i s

/-- `CLOCKALL` (R183). -/
def execClockAll (s : State) : Result := forEach clockAt (activeChips s) s

end Sys2Proof.Machine
end

