-- ==== Sys2Proof/Machine/Render.lean ====
section
/-! DEFINITION. The render pipeline (44_render.md): one output sample of one chip, and the meanings of SYNTH and
SYNTH_STRIPPED. Every intermediate is an unbounded integer until the clip (R308). -/

namespace Sys2Proof.Machine

/-- `voiceLevel(v) = e × (w - WFZ) + DACO` (R293). -/
def voiceLevel (c : Chip) (v : Voice) : Int :=
  ((Config.envOut (c.env.get v)).toNat : Int) * (((Config.waveOut c.osc v).toNat : Int) - c.wfz) + c.daco

/-- The scratch of a tick while the voices are visited (10_state.md R55): the chip (whose `FS` a trace moves), the sums,
the trace words. -/
structure Tick where
  chip : Chip
  sums : Sums
  t : PerVoice Int
deriving DecidableEq, Repr

/-- Step 1 of R291 for one voice: a muted voice is skipped (R295); `simOutput` runs only with `traceEn` (R303). -/
def renderVoice (scale : Byte) (traceEn : Bool) (k : Tick) (v : Voice) : Tick :=
  if k.chip.mute.get v then k
  else
    let vs := scaleBy (voiceLevel k.chip v) scale
    { chip := if traceEn then simState k.chip v vs else k.chip
      sums := routeSignal k.chip.filter vs k.sums v
      t := if traceEn then k.t.set v (simLevel k.chip v vs) else k.t }

/-- Step 1 of R291: the three voices in index order, from empty sums. -/
def renderVoices (scale : Byte) (traceEn : Bool) (c : Chip) : Tick :=
  [Voice.v0, .v1, .v2].foldl (renderVoice scale traceEn) ⟨c, ⟨0, 0⟩, perVoice 0⟩

/-- `extFilter(m)`: the new `EXT_Y` where the filter is on (R298). -/
def extNext (c : Chip) (m : Int) : Int :=
  c.filter.extY + tdiv ((m - c.filter.extY) * (Config.extK c.srate).val) 65536

/-- `extFilter(m)`: the level it returns (R298). -/
def extLevel (extEn : Bool) (c : Chip) (m : Int) : Int := if extEn then extNext c m else m

/-- `extFilter(m)`: the chip it leaves; `EXT_Y` is kept where the filter is off (R298). -/
def extState (extEn : Bool) (c : Chip) (m : Int) : Chip :=
  if extEn then { c with filter := { c.filter with extY := extNext c m } } else c

/-- What one tick of a chip yields: the chip it leaves, the clipped sample, the trace words, and how many RAM bytes have
been read. -/
structure Sample where
  chip : Chip
  y : Int
  t : PerVoice Int
  digi : Int
  reads : Nat
deriving DecidableEq, Repr

/-- `synthSample` of a chip (R291, order R292). -/
def synthTick (extEn traceEn : Bool) (scale : Byte) (reads : Nat) (c : Chip) : Sample :=
  let k := renderVoices scale traceEn { c with life := .active }
  let sums := routeDigi k.chip k.sums scale
  let m := volumeLevel (outputLevel k.chip sums) k.chip.vol
  let filtered := outputState k.chip sums
  let x := extLevel extEn filtered m
  let settled := extState extEn filtered m
  { chip := psidAdvance settled
    y := clip (x + scaleBy (psidLevel reads settled) scale)
    t := k.t
    digi := clip (volumeLevel (digiScaled k.chip.det scale) k.chip.vol)
    reads := psidReads reads settled }

/-- `synthSampleStripped` of a chip (R305): no digi, no PSID player, no traces; the mute test stays. -/
def strippedTick (extEn : Bool) (scale : Byte) (c : Chip) : Chip × Int :=
  let k := renderVoices scale false { c with life := .active }
  let m := volumeLevel (outputLevel k.chip k.sums) k.chip.vol
  let filtered := outputState k.chip k.sums
  (extState extEn filtered m, clip (extLevel extEn filtered m))

/-- Store a tick's results (R302, R303). -/
def storeSample (i : Fin 10) (clearFlag traceEn : Bool) (offset : BitVec 32) (q : Sample) (s : State) : State :=
  { s.setChip i q.chip with
    pcm := pcmWrite offset q.chip.chan clearFlag q.y s.pcm
    traces := if traceEn then traceWrite offset q.t q.digi s.traces else s.traces
    ramReads := q.reads }

/-- SYNTH at a chip index (R291), refused at a chip never reset (70_reset_and_hazards.md R388). -/
def synthAt (i : Fin 10) (scale : Byte) (clearFlag traceEn : Bool) (offset : BitVec 32) (s : State) : Result :=
  onInitialised i s fun chip =>
    .next (storeSample i clearFlag traceEn offset (synthTick s.registry.extEn traceEn scale s.ramReads chip) s)

/-- SYNTH_STRIPPED at a chip index (R305). -/
def synthStrippedAt (i : Fin 10) (scale : Byte) (clearFlag : Bool) (offset : BitVec 32) (s : State) : Result :=
  onInitialised i s fun chip =>
    let q := strippedTick s.registry.extEn scale chip
    .next { s.setChip i q.1 with pcm := pcmWrite offset q.1.chan clearFlag q.2 s.pcm }

/-- `SYNTH` (R291). -/
def execSynth (c : BitVec 8) (scale : Byte) (clearFlag traceEn : Bool) (offset : BitVec 32) (s : State) : Result :=
  match chipIndex c with
  | none => .next s
  | some i => synthAt i scale clearFlag traceEn offset s

/-- `SYNTH_STRIPPED` (R305). -/
def execSynthStripped (c : BitVec 8) (scale : Byte) (clearFlag : Bool) (offset : BitVec 32) (s : State) : Result :=
  match chipIndex c with
  | none => .next s
  | some i => synthStrippedAt i scale clearFlag offset s

end Sys2Proof.Machine
end

