-- ==== Sys2Proof/Machine/Registry.lean ====
section
/-! DEFINITION. The Multi-chip Registry (45_registry.md): CONFIG, chip reset, RESETALL, the render commands over all
chips, SETMODELS, and the reserved encodings (30_encoding.md R115). -/

namespace Sys2Proof.Machine

/-! ### Chip reset (R337, R338) -/

/-- The seven arguments of a chip reset, in the source's order (10_state.md R25). -/
structure ResetArgs where
  addr : Addr
  srate : BitVec 32
  model : ChipModel
  crate : BitVec 32
  realFile : Bool
  compat : Bool
  chan : BitVec 1
deriving DecidableEq, Repr

/-- The arguments RESET and RESETALL take from the configuration registers for slot `i` (R337, R339). -/
def resetArgs (r : Registry) (i : Fin 10) : ResetArgs where
  addr := cfgAddr r i
  srate := r.cfgSrate
  model := effModel r i
  crate := r.cfgCrate
  realFile := r.cfgRealFile
  compat := r.cfgCompat
  chan := (r.slots[i]).chan

/-- The chip after `chipReset`, whatever it held (R338, 10_state.md R60): master volume 15, the rest cleared. -/
def resetChip (a : ResetArgs) : Chip where
  life := .reset
  base := a.addr
  model := a.model
  srate := a.srate
  crate := a.crate
  realFile := a.realFile
  compat := a.compat
  chan := a.chan
  wfz := Config.wfZero a.model
  daco := dacOffset a.model
  regs := perVoice zeroRegs
  bus := 0
  vol := 15
  mute := perVoice false
  cyc := 0
  osc := perVoice (Config.oscReset a.model)
  env := perVoice (Config.envReset a.model)
  filter := ⟨0, 0, perVoice false, false, false, false, false, zeroHist, perVoice zeroHist, 0⟩
  det := resetDetectorFields

/-- A rate is 0, so a chip reset is refused (R338). -/
def badRates (r : Registry) : Bool := decide (r.cfgSrate = 0 ∨ r.cfgCrate = 0)

/-- `CHIP[i]` after `chipReset` with the slot's arguments. -/
def chipResetAt (s : State) (i : Fin 10) : State := s.setChip i (resetChip (resetArgs s.registry i))

/-! ### RESETALL (R339 to R341) -/

/-- `clampCount()` (R340): 1 to 3 in the legacy layout, 1 to 10 in the extended one. -/
def clampCount (r : Registry) : Fin 11 :=
  let bound := if r.cfgExtMulti then 10 else 3
  let n := r.cfgCount.toNat
  Fin.ofNat 11 (if n = 0 then 1 else if bound < n then bound else n)

/-- A base an extra chip may not have, whatever the other slots hold (20_memory.md R64, R66, 45_registry.md R339). -/
def badBase (b : Addr) : Bool :=
  decide (b.toNat < 0xD000 ∨ 0xDFFF < b.toNat ∨ b.toNat % 32 ≠ 0
    ∨ (0x80 ≤ (b.extractLsb' 4 8).toNat ∧ (b.extractLsb' 4 8).toNat ≤ 0xDF) ∨ b = chip0Base)

/-- The extra chips of a count: slots 1 to n - 1 in index order. -/
def extraChips (n : Nat) : List (Fin 10) := (chipsBelow n).filter (fun i => decide (i ≠ 0))

/-- Slot `i`'s base is illegal, or that of an extra slot before it (R339). -/
def slotRefused (r : Registry) (i : Fin 10) : Bool :=
  badBase (cfgAddr r i) || (extraChips i.val).any (fun j => decide (cfgAddr r j = cfgAddr r i))

/-- Some extra chip in use has a bad base (R339). -/
def badBases (r : Registry) (n : Nat) : Bool := (extraChips n).any (slotRefused r)

/-- The 32-byte window of an extra chip (R341). -/
def chipWindow (r : Registry) (i : Fin 10) : LutWindow := ⟨cfgAddr r i, 32, i⟩

/-- Chip 0 and its mirrors, 0xD400..0xD7FF (R341, 20_memory.md R64). -/
def chip0Window : LutWindow := ⟨chip0Base, 0x400, 0⟩

/-- `rebuildLUT()` (R341): the window written last stands first, so that it is the one found. -/
def rebuildLut (r : Registry) (n : Nat) : List LutWindow :=
  ((extraChips n).map (chipWindow r)).reverse ++ [chip0Window]

/-- The state RESETALL leaves for a count `n` (R339): `N_USED`, every chip in use reset, the table rebuilt. -/
def resetAllState (s : State) (n : Fin 11) : State :=
  let s' := (chipsBelow n.val).foldl chipResetAt s
  { s' with registry := { s'.registry with nUsed := n, lut := rebuildLut s.registry n.val } }

/-! ### Rendering all chips (R343, R344) -/

/-- `CHIP[j].CHAN = CHIP[i].CHAN`. -/
def sameChannel (s : State) (i j : Fin 10) : Bool := decide ((s.chip j).chan = (s.chip i).chan)

/-- `n_i`: the chips in use on chip `i`'s channel, `i` included (R343). -/
def channelCount (s : State) (i : Fin 10) : Nat := ((activeChips s).filter (sameChannel s i)).length

/-- `S_i = VOLMAP[n_i - 1]` (R343). -/
def channelScale (s : State) (i : Fin 10) : Byte := volMap (Fin.ofNat 10 (channelCount s i - 1))

/-- `clr_i`: is chip `i` the first on its channel (R343)? -/
def firstOnChannel (s : State) (i : Fin 10) : Bool := !(chipsBelow i.val).any (sameChannel s i)

/-- One chip's turn in SYNTHALL: only chip 0 traces (R343). -/
def synthAllTurn (traceEn : Bool) (offset : BitVec 32) (i : Fin 10) (s : State) : Result :=
  synthAt i (channelScale s i) (firstOnChannel s i) (traceEn && decide (i = 0)) offset s

/-- One chip's turn in SYNTHALL_STRIPPED (R344). -/
def synthAllStrippedTurn (offset : BitVec 32) (i : Fin 10) (s : State) : Result :=
  synthStrippedAt i (channelScale s i) (firstOnChannel s i) offset s

/-! ### SETMODELS (R345) -/

/-- A chip given a model: the flag, the two constants derived from it, the filter histories cleared. -/
def setModel (m : ChipModel) (c : Chip) : Chip :=
  { c with model := m, wfz := Config.wfZero m, daco := dacOffset m, filter := flushHistory c.filter }

/-- One chip's turn in SETMODELS: bit `i` is the new `isModel6581` of chip `i` (30_encoding.md R111). -/
def setModelAt (bits : BitVec 10) (s : State) (i : Fin 10) : State :=
  s.setChip i (setModel (modelOfBit (bits.getLsbD i.val)) (s.chip i))

/-! ### Meanings -/

/-- `CONFIG.SRATE` (R332). -/
def execConfigSrate (n : BitVec 32) (s : State) : Result :=
  .next { s with registry := { s.registry with cfgSrate := n } }

/-- `CONFIG.CRATE` (R333). -/
def execConfigCrate (n : BitVec 32) (s : State) : Result :=
  .next { s with registry := { s.registry with cfgCrate := n } }

/-- `CONFIG.FLAGS` (R334): all four bits. -/
def execConfigFlags (realFile compat extMulti extFilt : Bool) (s : State) : Result :=
  .next { s with registry :=
    { s.registry with cfgRealFile := realFile, cfgCompat := compat, cfgExtMulti := extMulti, extEn := extFilt } }

/-- `CONFIG.COUNT` (R335): stored as it is; RESETALL clamps. -/
def execConfigCount (n : BitVec 4) (s : State) : Result :=
  .next { s with registry := { s.registry with cfgCount := n } }

/-- `CONFIG.CHIP` (R336): slot 0 ignores the address. -/
def execConfigChip (slot : Fin 10) (base : Addr) (m6581 : Bool) (ovr : BitVec 2) (chan : BitVec 1) (s : State) : Result :=
  .next { s with registry :=
    { s.registry with slots := s.registry.slots.set slot ⟨if slot = 0 then chip0Base else base, m6581, ovr, chan⟩ } }

/-- `CONFIG.RESERVED` (30_encoding.md R115): no state change. -/
def execConfigReserved (s : State) : Result := .next s

/-- `RESET` (R337): nothing where `SEL` names no chip; refused at a zero rate (R338). -/
def execReset (c : BitVec 8) (s : State) : Result :=
  match chipIndex c with
  | none => .next s
  | some i => if badRates s.registry then .refused .badRate else .next (chipResetAt s i)

/-- `RESETALL` (R339): `BadRate` before `BadBase` (60_exceptions.md R363). -/
def execResetAll (s : State) : Result :=
  if badRates s.registry then .refused .badRate
  else if badBases s.registry (clampCount s.registry).val then .refused .badBase
  else .next (resetAllState s (clampCount s.registry))

/-- `SYNTHALL` (R343). -/
def execSynthAll (traceEn : Bool) (offset : BitVec 32) (s : State) : Result :=
  forEach (synthAllTurn traceEn offset) (activeChips s) s

/-- `SYNTHALL_STRIPPED` (R344). -/
def execSynthAllStripped (offset : BitVec 32) (s : State) : Result :=
  forEach (synthAllStrippedTurn offset) (activeChips s) s

/-- `SETMODELS` (R345). -/
def execSetModels (bits : BitVec 10) (s : State) : Result := .next ((activeChips s).foldl (setModelAt bits) s)

/-- `RESERVED` (30_encoding.md R115): no state change, no response. -/
def execReserved (s : State) : Result := .next s

end Sys2Proof.Machine
end

