-- ==== Sys2Proof/Machine/Dispatch.lean ====
section
/-! DEFINITION. One arm per command, each one direct call of its meaning. -/

namespace Sys2Proof.Machine

def exec (i : Instr) (s : State) : Host.Outcome State Fault Refusal :=
  match i with
  | .writeFreqLo win v val => Sys2Proof.Machine.execWriteFreqLo win v val s
  | .writeFreqHi win v val => Sys2Proof.Machine.execWriteFreqHi win v val s
  | .writePwLo win v val => Sys2Proof.Machine.execWritePwLo win v val s
  | .writePwHi win v val => Sys2Proof.Machine.execWritePwHi win v val s
  | .writeWave win v val => Sys2Proof.Machine.execWriteWave win v val s
  | .writeAd win v val => Sys2Proof.Machine.execWriteAd win v val s
  | .writeSr win v val => Sys2Proof.Machine.execWriteSr win v val s
  | .writeFcLo win val => Sys2Proof.Machine.execWriteFcLo win val s
  | .writeFcHi win val => Sys2Proof.Machine.execWriteFcHi win val s
  | .writeResFilt win val => Sys2Proof.Machine.execWriteResFilt win val s
  | .writeModeVol win val => Sys2Proof.Machine.execWriteModeVol win val s
  | .writeUnmapped addr val => Sys2Proof.Machine.execWriteUnmapped addr val s
  | .readBus addr => Sys2Proof.Machine.execReadBus addr s
  | .readOsc3 win => Sys2Proof.Machine.execReadOsc3 win s
  | .readEnv3 win => Sys2Proof.Machine.execReadEnv3 win s
  | .peekBus addr => Sys2Proof.Machine.execPeekBus addr s
  | .peekOsc3 win => Sys2Proof.Machine.execPeekOsc3 win s
  | .peekEnv3 win => Sys2Proof.Machine.execPeekEnv3 win s
  | .clockAll => Sys2Proof.Machine.execClockAll s
  | .synthAll traceEn offset => Sys2Proof.Machine.execSynthAll traceEn offset s
  | .synthAllStripped offset => Sys2Proof.Machine.execSynthAllStripped offset s
  | .resetAll => Sys2Proof.Machine.execResetAll s
  | .configSrate n => Sys2Proof.Machine.execConfigSrate n s
  | .configCrate n => Sys2Proof.Machine.execConfigCrate n s
  | .configFlags realFile compat extMulti extFilt => Sys2Proof.Machine.execConfigFlags realFile compat extMulti extFilt s
  | .configCount n => Sys2Proof.Machine.execConfigCount n s
  | .configChip slot base m6581 ovr chan => Sys2Proof.Machine.execConfigChip slot base m6581 ovr chan s
  | .configReserved _ => Sys2Proof.Machine.execConfigReserved s
  | .setModels bits => Sys2Proof.Machine.execSetModels bits s
  | .digiCtrlResetCount c => Sys2Proof.Machine.execDigiCtrlResetCount c s
  | .digiCtrlDisable c => Sys2Proof.Machine.execDigiCtrlDisable c s
  | .digiCtrlEnable c => Sys2Proof.Machine.execDigiCtrlEnable c s
  | .digiCtrlReset c => Sys2Proof.Machine.execDigiCtrlReset c s
  | .digiQueryType c => Sys2Proof.Machine.execDigiQueryType c s
  | .digiQueryRate c => Sys2Proof.Machine.execDigiQueryRate c s
  | .digiQueryDesc c => Sys2Proof.Machine.execDigiQueryDesc c s
  | .digiQueryReserved c => Sys2Proof.Machine.execDigiQueryReserved c s
  | .clock c => Sys2Proof.Machine.execClock c s
  | .synth c scale clearFlag traceEn offset => Sys2Proof.Machine.execSynth c scale clearFlag traceEn offset s
  | .synthStripped c scale clearFlag offset => Sys2Proof.Machine.execSynthStripped c scale clearFlag offset s
  | .reset c => Sys2Proof.Machine.execReset c s
  | .reserved _ => Sys2Proof.Machine.execReserved s

end Sys2Proof.Machine
end

