-- ==== Sys2Proof/Machine/Step.lean ====
section
/-! DEFINITION. One step: take the oldest waiting command word from the command port, decode it, run it (entry 1). -/

namespace Sys2Proof.Machine

/-- One step (00_scope.md R19). With no command waiting the block does nothing (60_exceptions.md R373). -/
def step (s : State) : Host.Outcome State Fault Refusal :=
  match s.port with
  | [] => .next s
  | w :: rest => exec (decode w) { s with port := rest }

/-- `s` with the command word of bits `w` at the command port, before any other: the host's next command (entry 1).
Commands have one width (30_encoding.md R100); the bits of `w` above the row's are 0. -/
def State.withFetchWord (s : State) (_nbits w : Nat) : State := { s with port := BitVec.ofNat 64 w :: s.port }

end Sys2Proof.Machine
end

