-- ==== Sys2Proof/Safety.lean ====
section
/-! DEFINITION. Which commands the spec gives a meaning in which states (60_exceptions.md R361, R362), the properties of
a state that every command keeps, and the words the statements use for what a command leaves alone. -/

namespace Sys2Proof.Machine

/-! ### Legal commands -/

/-- Chip `i` has been reset at least once (10_state.md R21). -/
def State.initialised (s : State) (i : Fin 10) : Bool := decide ((s.chip i).life ≠ .uninit)

/-- Every chip in use has been reset (70_reset_and_hazards.md R388). -/
def State.activeInitialised (s : State) : Bool := (activeChips s).all s.initialised

/-- A bus command may use this address (20_memory.md R65, 70_reset_and_hazards.md R388). -/
def State.busLegal (s : State) (a : Addr) : Bool :=
  match busChip s a with
  | none => false
  | some i => s.initialised i

/-- A per-chip command may name this chip: an index of 10 or more is legal and does nothing (30_encoding.md R115). -/
def State.chipLegal (s : State) (c : BitVec 8) : Bool :=
  match chipIndex c with
  | none => true
  | some i => s.initialised i

/-- When RESET is not refused (45_registry.md R337, R338). -/
def State.resetLegal (s : State) (c : BitVec 8) : Bool := decide (chipIndex c = none) || !badRates s.registry

/-- When RESETALL is not refused (45_registry.md R339). -/
def State.resetAllLegal (s : State) : Bool :=
  !badRates s.registry && !badBases s.registry (clampCount s.registry).val

/-- The commands the spec does not refuse: the safe ones (60_exceptions.md R361, R362). -/
def legal : Instr → State → Bool
  | .writeFreqLo win v _, s => s.busLegal (busAddr win (voiceReg v 0))
  | .writeFreqHi win v _, s => s.busLegal (busAddr win (voiceReg v 1))
  | .writePwLo win v _, s => s.busLegal (busAddr win (voiceReg v 2))
  | .writePwHi win v _, s => s.busLegal (busAddr win (voiceReg v 3))
  | .writeWave win v _, s => s.busLegal (busAddr win (voiceReg v 4))
  | .writeAd win v _, s => s.busLegal (busAddr win (voiceReg v 5))
  | .writeSr win v _, s => s.busLegal (busAddr win (voiceReg v 6))
  | .writeFcLo win _, s => s.busLegal (busAddr win 0x15)
  | .writeFcHi win _, s => s.busLegal (busAddr win 0x16)
  | .writeResFilt win _, s => s.busLegal (busAddr win 0x17)
  | .writeModeVol win _, s => s.busLegal (busAddr win 0x18)
  | .writeUnmapped addr _, s => s.busLegal addr
  | .readBus addr, s => s.busLegal addr
  | .readOsc3 win, s => s.busLegal (busAddr win 0x1B)
  | .readEnv3 win, s => s.busLegal (busAddr win 0x1C)
  | .peekBus addr, s => s.busLegal addr
  | .peekOsc3 win, s => s.busLegal (busAddr win 0x1B)
  | .peekEnv3 win, s => s.busLegal (busAddr win 0x1C)
  | .clockAll, s => s.activeInitialised
  | .synthAll _ _, s => s.activeInitialised
  | .synthAllStripped _, s => s.activeInitialised
  | .resetAll, s => s.resetAllLegal
  | .configSrate _, _ => true
  | .configCrate _, _ => true
  | .configFlags _ _ _ _, _ => true
  | .configCount _, _ => true
  | .configChip _ _ _ _ _, _ => true
  | .configReserved _, _ => true
  | .setModels _, _ => true
  | .digiCtrlResetCount c, s => s.chipLegal c
  | .digiCtrlDisable c, s => s.chipLegal c
  | .digiCtrlEnable c, s => s.chipLegal c
  | .digiCtrlReset c, s => s.chipLegal c
  | .digiQueryType c, s => s.chipLegal c
  | .digiQueryRate c, s => s.chipLegal c
  | .digiQueryDesc c, s => s.chipLegal c
  | .digiQueryReserved c, s => s.chipLegal c
  | .clock c, s => s.chipLegal c
  | .synth c _ _ _ _, s => s.chipLegal c
  | .synthStripped c _ _ _, s => s.chipLegal c
  | .reset c, s => s.resetLegal c
  | .reserved _, _ => true

/-- A bus command at `a` reaches chip `i`, which has been reset. -/
def State.reaches (s : State) (a : Addr) (i : Fin 10) : Prop := busChip s a = some i ∧ (s.chip i).life ≠ .uninit

/-- A per-chip command with selector `c` names chip `i`, which has been reset. -/
def State.selects (s : State) (c : BitVec 8) (i : Fin 10) : Prop := chipIndex c = some i ∧ (s.chip i).life ≠ .uninit

/-- Run commands one after another, in command order (20_memory.md R77). -/
def execAll : List Instr → State → Result
  | [], s => .next s
  | i :: rest, s => andThen (exec i s) (execAll rest)

/-! ### What a command leaves alone -/

/-- Every byte of the PCM buffer reads as before, but for those of the word of index `w` where there is one. -/
def pcmSameBut (w : Option Nat) (s t : State) : Prop :=
  ∀ a, (∀ i, w = some i → a ≠ 2 * i ∧ a ≠ 2 * i + 1) → readByte t.pcm a = readByte s.pcm a

/-- Every byte of the four trace buffers reads as before, but for those of the words of frame `w` where there is one. -/
def tracesSameBut (w : Option Nat) (s t : State) : Prop :=
  ∀ a, (∀ i, w = some i → a ≠ 2 * i ∧ a ≠ 2 * i + 1) →
    (∀ v, readByte (t.traces.voice.get v) a = readByte (s.traces.voice.get v) a)
      ∧ readByte t.traces.digi a = readByte s.traces.digi a

/-- Every byte of every memory reads as before. -/
def sameMemory (s t : State) : Prop := pcmSameBut none s t ∧ tracesSameBut none s t

/-- Nothing outside the chips and the memories has changed. -/
def sameOutsideChips (s t : State) : Prop :=
  t.registry = s.registry ∧ t.port = s.port ∧ t.responses = s.responses

/-- Only chip `i` may have changed: the other chips, the registry, the port, the responses, every byte of memory and the
count of RAM reads are as before. -/
def onlyChip (i : Fin 10) (s t : State) : Prop :=
  (∀ j, j ≠ i → t.chip j = s.chip j) ∧ sameOutsideChips s t ∧ t.ramReads = s.ramReads ∧ sameMemory s t

/-- Nothing of a chip has changed but, perhaps, its detector and its mutes. -/
def sameButDetector (c d : Chip) : Prop := d = { c with det := d.det, mute := d.mute }

/-! ### Properties of a chip that every command keeps -/

/-- The voices that a technique with its source silences: a voice technique its own voice, Mahoney all three, plain D418
none (10_state.md R48, R56). -/
def silencedBy : DigiType → DigiSrc → PerVoice Bool
  | .m418, _ => perVoice true
  | .fm, .voice v | .pwm, .voice v | .swallow, .voice v => (perVoice false).set v true
  | .fm, _ | .pwm, _ | .swallow, _ | .none, _ | .d418, _ => perVoice false

/-- The sources a technique may have (10_state.md R42, 43_digi_detector.md R227, R253). -/
def sourceFits : DigiType → DigiSrc → Bool
  | .none, .unused => true
  | .d418, .volume | .m418, .volume => true
  | .fm, .voice _ | .pwm, .voice _ | .swallow, .voice _ => true
  | .none, .volume | .none, .voice _ | .d418, .unused | .d418, .voice _ | .m418, .unused | .m418, .voice _
  | .fm, .unused | .fm, .volume | .pwm, .unused | .pwm, .volume | .swallow, .unused | .swallow, .volume => false

/-- The mutes are those of the one active technique, and the detector remembers each (10_state.md R48). -/
def Chip.mutesFollowSource (c : Chip) : Prop :=
  sourceFits c.det.type c.det.src = true ∧ c.mute = silencedBy c.det.type c.det.src ∧ c.det.muted = c.mute

/-- With every filter mode off, the main and the visualisation histories are zero (42_filter.md R194). -/
def Chip.historyFlushed (c : Chip) : Prop :=
  modesOff c.filter = true → c.filter.fh = zeroHist ∧ c.filter.fs = perVoice zeroHist

/-- A chip that has been reset holds the constants of its model and rates that are not 0 (10_state.md R26,
45_registry.md R338). -/
def Chip.constantsDerived (c : Chip) : Prop :=
  c.life ≠ .uninit → c.wfz = Config.wfZero c.model ∧ c.daco = dacOffset c.model ∧ c.srate ≠ 0 ∧ c.crate ≠ 0

/-- A disabled detector holds no technique and no half-seen pattern, and its player is stopped (43_digi_detector.md
R273). -/
def Chip.disabledInert (c : Chip) : Prop :=
  c.det.en = false →
    c.det.type = .none ∧ c.det.src = .unused ∧ c.det.count = 0
      ∧ c.det.fm = perVoice idleFm ∧ c.det.pw = perVoice idlePw ∧ c.det.sw = perVoice none
      ∧ c.det.psid.pdActive = false

/-- The PSID player of a real file is as reset left it (43_digi_detector.md R261). -/
def Chip.realFilePlayerStill (c : Chip) : Prop := c.realFile = true → c.det.psid = zeroPsid

/-- The FM and PWM-test automata of one voice are never both past their first phase (43_digi_detector.md R242). -/
def Chip.automataExclusive (c : Chip) : Prop :=
  ∀ v, (c.det.fm.get v).phase = .idle ∨ (c.det.pw.get v).phase = .idle ∨ (c.det.pw.get v).phase = .prepA

/-! ### Properties of a state that every command keeps -/

/-- All five memories are in canonical form. -/
def State.memoriesCanonical (s : State) : Bool :=
  Memory.wf s.pcm && Memory.wf s.traces.voice.v0 && Memory.wf s.traces.voice.v1 && Memory.wf s.traces.voice.v2
    && Memory.wf s.traces.digi

/-- No word of a memory is -32768, the one 16-bit value the clip never yields (44_render.md R300). -/
def samplesInRange (m : Memory) : Prop := ∀ i, readSample m i ≠ -32768

/-- No word of any buffer is -32768. -/
def State.samplesInRange (s : State) : Prop :=
  Sys2Proof.Machine.samplesInRange s.pcm ∧ (∀ v, Sys2Proof.Machine.samplesInRange (s.traces.voice.get v))
    ∧ Sys2Proof.Machine.samplesInRange s.traces.digi

/-- Every chip in use has been reset, and the lookup table names only chips in use (10_state.md R53, R54). -/
def State.busMapsChipsInUse (s : State) : Prop :=
  (∀ i : Fin 10, i.val < s.registry.nUsed.val → (s.chip i).life ≠ .uninit)
    ∧ ∀ w ∈ s.registry.lut, w.chip.val < s.registry.nUsed.val

/-- Slot 0 and chip 0 stay at 0xD400 (10_state.md R23, R52). -/
def State.chip0Fixed (s : State) : Prop :=
  (s.registry.slots[(0 : Fin 10)]).addr = chip0Base ∧ ((s.chip 0).life ≠ .uninit → (s.chip 0).base = chip0Base)

/-! ### What only the traces show (10_state.md R40, 20_memory.md R73) -/

/-- A chip without its visualisation histories. -/
def Chip.audible (c : Chip) : Chip := { c with filter := { c.filter with fs := perVoice zeroHist } }

/-- A state without the visualisation histories of its chips and without the trace buffers. -/
def State.audible (s : State) : State :=
  { s with chips := s.chips.map Chip.audible, traces := ⟨perVoice [], []⟩ }

end Sys2Proof.Machine
end

