-- ==== Sys2Proof/Certificates/Slice0/Obligations.lean ====
section
/-! DEFINITION. The statements for the provers. Each docstring names the rules it formalises; a rule that the spec marks
as its own decision is named with that decision (92_eei_decisions.md D<n>), and a clause that rests on a choice of the
model with its entry of the assumption log. -/

open Sys2Proof Sys2Proof.Machine

/-! ### Encoding and the step -/

/-- A step takes the oldest waiting command word, decodes it and runs the command on the state without that word; with no
word waiting it changes nothing (00_scope.md R19, 60_exceptions.md R373; the list of waiting words is entry 1). -/
def Obligations.StepRunsDecodedCommand : Prop :=
  (∀ (s : State) (w : Word) (rest : List Word) (i : Instr),
      s.port = w :: rest → decode w = i → i.wellFormed = true → step s = exec i { s with port := rest })
    ∧ ∀ s : State, s.port = [] → step s = .next s

/-- The host's next command is the one that runs, whatever else waits: placing the encoding of a well-formed command at
the port makes the very next step that command (00_scope.md R19, 30_encoding.md R100; the port is entry 1). -/
def Obligations.PlacedCommandRunsNext : Prop :=
  ∀ (i : Instr) (s : State) (nbits : Nat), i.wellFormed = true →
    step (s.withFetchWord nbits (encode i).toNat) = exec i s

/-- Decoding what the encoder writes gives the command back, for every well-formed command of every family, with every
operand at every value (30_encoding.md R100 to R113, D1, D30). -/
def Obligations.DecodeEncodeRoundTrip : Prop := ∀ i : Instr, i.wellFormed = true → decode (encode i) = i

/-- Every 64-bit word decodes to a well-formed command of its own opcode, with every operand the opcode reads: encoding the
command again gives back the opcode and every field, or part of one, that the opcode and its selector use. A reserved opcode
decodes to its own reserved command and a reserved CONFIG selector to its own, so the rows of the opcode table leave no word
without a meaning and no reserved encoding falls through to a neighbour (30_encoding.md R100 to R103, R105, R106, R110 to
R113, R115). -/
def Obligations.EveryWordDecodesWellFormed : Prop :=
  ∀ w : Word,
    let op := opOf w
    let sel := selOf w
    let again := encode (decode w)
    let keepsSel := selOf again = sel
    let keepsAddr (bits : Nat) := (addrOf again).extractLsb' 0 bits = (addrOf w).extractLsb' 0 bits
    let keepsData (bits : Nat) := (dataOf again).extractLsb' 0 bits = (dataOf w).extractLsb' 0 bits
    (decode w).wellFormed = true
    ∧ opOf again = op
    ∧ ((op.toNat = 0 ∨ 0x10 ≤ op.toNat) → decode w = .reserved op)
    ∧ (op = 0x01 → keepsAddr 16 ∧ keepsData 8)
    ∧ ((op = 0x02 ∨ op = 0x03) → keepsAddr 16)
    ∧ (op = 0x05 → (addrOf again).getLsbD 9 = (addrOf w).getLsbD 9 ∧ keepsData 32)
    ∧ (op = 0x06 → keepsData 32)
    ∧ (op = 0x08 →
        keepsSel
        ∧ ((sel = 0x00 ∨ sel = 0x01) → keepsData 32)
        ∧ ((sel = 0x02 ∨ sel = 0x03) → keepsData 4)
        ∧ ((0x10 ≤ sel.toNat ∧ sel.toNat ≤ 0x19) → keepsAddr 16 ∧ keepsData 4)
        ∧ ((0x04 ≤ sel.toNat ∧ sel.toNat ≤ 0x0F ∨ 0x1A ≤ sel.toNat) → decode w = .configReserved sel))
    ∧ (op = 0x09 → keepsData 10)
    ∧ ((op = 0x0A ∨ op = 0x0B) → keepsSel ∧ keepsData 2)
    ∧ ((op = 0x0C ∨ op = 0x0F) → keepsSel)
    ∧ (op = 0x0D → keepsSel ∧ keepsAddr 10 ∧ keepsData 32)
    ∧ (op = 0x0E → keepsSel ∧ keepsAddr 9 ∧ keepsData 32)

/-- A field a command does not use is ignored, whatever it holds, for every opcode and every selector of CONFIG
(30_encoding.md R100 to R103, R110 to R113, R115, D1). -/
def Obligations.UnusedFieldsAreIgnored : Prop :=
  ∀ (sel sel' : BitVec 8) (addr addr' : Addr) (data data' : BitVec 32),
    (data.extractLsb' 0 8 = data'.extractLsb' 0 8 → decodeFields 0x01 sel addr data = decodeFields 0x01 sel' addr data')
    ∧ decodeFields 0x02 sel addr data = decodeFields 0x02 sel' addr data'
    ∧ decodeFields 0x03 sel addr data = decodeFields 0x03 sel' addr data'
    ∧ decodeFields 0x04 sel addr data = decodeFields 0x04 sel' addr' data'
    ∧ (addr.getLsbD 9 = addr'.getLsbD 9 → decodeFields 0x05 sel addr data = decodeFields 0x05 sel' addr' data)
    ∧ decodeFields 0x06 sel addr data = decodeFields 0x06 sel' addr' data
    ∧ decodeFields 0x07 sel addr data = decodeFields 0x07 sel' addr' data'
    ∧ ((sel = 0x00 ∨ sel = 0x01) → decodeFields 0x08 sel addr data = decodeFields 0x08 sel addr' data)
    ∧ ((sel = 0x02 ∨ sel = 0x03) → data.extractLsb' 0 4 = data'.extractLsb' 0 4 →
        decodeFields 0x08 sel addr data = decodeFields 0x08 sel addr' data')
    ∧ ((0x10 ≤ sel.toNat ∧ sel.toNat ≤ 0x19) → data.extractLsb' 0 4 = data'.extractLsb' 0 4 →
        decodeFields 0x08 sel addr data = decodeFields 0x08 sel addr data')
    ∧ ((0x04 ≤ sel.toNat ∧ sel.toNat ≤ 0x0F ∨ 0x1A ≤ sel.toNat) →
        decodeFields 0x08 sel addr data = decodeFields 0x08 sel addr' data')
    ∧ (data.extractLsb' 0 10 = data'.extractLsb' 0 10 →
        decodeFields 0x09 sel addr data = decodeFields 0x09 sel' addr' data')
    ∧ (data.extractLsb' 0 2 = data'.extractLsb' 0 2 →
        decodeFields 0x0A sel addr data = decodeFields 0x0A sel addr' data'
          ∧ decodeFields 0x0B sel addr data = decodeFields 0x0B sel addr' data')
    ∧ decodeFields 0x0C sel addr data = decodeFields 0x0C sel addr' data'
    ∧ (addr.extractLsb' 0 10 = addr'.extractLsb' 0 10 →
        decodeFields 0x0D sel addr data = decodeFields 0x0D sel addr' data)
    ∧ (addr.extractLsb' 0 9 = addr'.extractLsb' 0 9 →
        decodeFields 0x0E sel addr data = decodeFields 0x0E sel addr' data)
    ∧ decodeFields 0x0F sel addr data = decodeFields 0x0F sel addr' data'
    ∧ ∀ op : BitVec 8, (op.toNat = 0 ∨ 0x10 ≤ op.toNat) →
        decodeFields op sel addr data = decodeFields op sel' addr' data'

/-- Words written out from the tables of 30_encoding.md (R102, R105, R106, R110, R112, R113, R117) decode to the commands
they stand for. -/
def Obligations.WrittenOutWordsDecode : Prop :=
  decode 0x0100_D418_0000_000F = .writeModeVol 0x6A0 0x0F
    ∧ decode 0x0100_D412_0000_0049 = .writeWave 0x6A0 .v2 0x49
    ∧ decode 0x0200_D41B_0000_0000 = .readOsc3 0x6A0
    ∧ decode 0x0300_D41A_0000_0000 = .peekBus 0xD41A
    ∧ decode 0x0811_D420_0000_0008 = .configChip 1 0xD420 false 0 1
    ∧ decode 0x0B03_0000_0000_0001 = .digiQueryRate 3
    ∧ decode 0x0D00_03FF_0000_0005 = .synth 0 0xFF true true 5
    ∧ decode 0x1000_0000_0000_0000 = .reserved 0x10

/-! ### Reserved encodings and indices of no chip -/

/-- A reserved opcode and a reserved CONFIG selector change nothing; a per-chip command whose index is 10 or more changes
nothing, and DIGI_QUERY then answers 0 (30_encoding.md R115, D32). -/
def Obligations.ReservedEncodingsDoNothing : Prop :=
  ∀ (s : State) (c : BitVec 8) (scale : Byte) (clearFlag traceEn : Bool) (offset : BitVec 32) (op sel : BitVec 8),
    exec (.reserved op) s = .next s
    ∧ exec (.configReserved sel) s = .next s
    ∧ (10 ≤ c.toNat →
        exec (.clock c) s = .next s
        ∧ exec (.synth c scale clearFlag traceEn offset) s = .next s
        ∧ exec (.synthStripped c scale clearFlag offset) s = .next s
        ∧ exec (.reset c) s = .next s
        ∧ exec (.digiCtrlResetCount c) s = .next s
        ∧ exec (.digiCtrlDisable c) s = .next s
        ∧ exec (.digiCtrlEnable c) s = .next s
        ∧ exec (.digiCtrlReset c) s = .next s
        ∧ exec (.digiQueryType c) s = .next { s with responses := s.responses ++ [0] }
        ∧ exec (.digiQueryRate c) s = .next { s with responses := s.responses ++ [0] }
        ∧ exec (.digiQueryDesc c) s = .next { s with responses := s.responses ++ [0] }
        ∧ exec (.digiQueryReserved c) s = .next { s with responses := s.responses ++ [0] })

/-! ### WRITE -/

/-- WRITE to FREQ_LO, AD and SR of a voice: the byte goes to the register shadow and to the oscillator or the envelope; no
voice algorithm watches these registers and no pseudo-register of the PSID player lies at a mapped offset, so nothing of
the detector moves (40_register_access.md R135, R140, R141, 20_memory.md R71). Nothing outside the chip changes. -/
def Obligations.UnwatchedVoiceWrites : Prop :=
  ∀ (win : BitVec 11) (v : Voice) (val : Byte) (s : State) (i : Fin 10),
    (s.reaches (busAddr win (voiceReg v 0)) i →
      let c := s.chip i
      let c' : Chip := { c with
        life := .active, bus := val
        regs := c.regs.set v { c.regs.get v with freqLo := val }
        osc := c.osc.set v (Config.oscWrite (c.osc.get v) .freqLo val) }
      exec (.writeFreqLo win v val) s = .next (s.setChip i c')
        ∧ getFreq c' v = (getFreq c v).extractLsb' 8 8 ++ val ∧ onlyChip i s (s.setChip i c'))
    ∧ (s.reaches (busAddr win (voiceReg v 5)) i →
      let c := s.chip i
      let c' : Chip := { c with
        life := .active, bus := val
        regs := c.regs.set v { c.regs.get v with ad := val }
        env := c.env.set v (Config.envWrite (c.env.get v) .ad val) }
      exec (.writeAd win v val) s = .next (s.setChip i c')
        ∧ getAD c' v = val ∧ onlyChip i s (s.setChip i c'))
    ∧ (s.reaches (busAddr win (voiceReg v 6)) i →
      let c := s.chip i
      let c' : Chip := { c with
        life := .active, bus := val
        regs := c.regs.set v { c.regs.get v with sr := val }
        env := c.env.set v (Config.envWrite (c.env.get v) .sr val) }
      exec (.writeSr win v val) s = .next (s.setChip i c')
        ∧ getSR c' v = val ∧ onlyChip i s (s.setChip i c'))

/-- WRITE to FREQ_HI: the detector sees the write first, on the registers from before it, and then the register is applied
even when the FM algorithm consumed the write (40_register_access.md R136). The detector writes nothing but its own fields
and the mutes; nothing outside the chip changes. -/
def Obligations.FreqHiWrite : Prop :=
  ∀ (win : BitVec 11) (v : Voice) (val : Byte) (s : State) (i : Fin 10),
    s.reaches (busAddr win (voiceReg v 1)) i →
      let c := s.chip i
      let d := (detectSample (busAddr win (voiceReg v 1)) val { c with life := .active }).1
      let c' : Chip := { c with
        life := .active, bus := val, det := d.det, mute := d.mute
        regs := c.regs.set v { c.regs.get v with freqHi := val }
        osc := c.osc.set v (Config.oscWrite (c.osc.get v) .freqHi val) }
      exec (.writeFreqHi win v val) s = .next (s.setChip i c')
        ∧ getFreq c' v = val ++ (getFreq c v).extractLsb' 0 8 ∧ onlyChip i s (s.setChip i c')

/-- WRITE to PW_LO (40_register_access.md R137): as for FREQ_HI, with the low byte of the pulse width. -/
def Obligations.PwLoWrite : Prop :=
  ∀ (win : BitVec 11) (v : Voice) (val : Byte) (s : State) (i : Fin 10),
    s.reaches (busAddr win (voiceReg v 2)) i →
      let c := s.chip i
      let d := (detectSample (busAddr win (voiceReg v 2)) val { c with life := .active }).1
      let c' : Chip := { c with
        life := .active, bus := val, det := d.det, mute := d.mute
        regs := c.regs.set v { c.regs.get v with pwLo := val }
        osc := c.osc.set v (Config.oscWrite (c.osc.get v) .pwLo val) }
      exec (.writePwLo win v val) s = .next (s.setChip i c')
        ∧ getPulse c' v = (getPulse c v).extractLsb' 8 4 ++ val ∧ onlyChip i s (s.setChip i c')

/-- WRITE to PW_HI (40_register_access.md R138, D7): the register keeps all eight bits, the pulse width takes the low four.
-/
def Obligations.PwHiWrite : Prop :=
  ∀ (win : BitVec 11) (v : Voice) (val : Byte) (s : State) (i : Fin 10),
    s.reaches (busAddr win (voiceReg v 3)) i →
      let c := s.chip i
      let d := (detectSample (busAddr win (voiceReg v 3)) val { c with life := .active }).1
      let c' : Chip := { c with
        life := .active, bus := val, det := d.det, mute := d.mute
        regs := c.regs.set v { c.regs.get v with pwHi := val }
        osc := c.osc.set v (Config.oscWrite (c.osc.get v) .pwHi val) }
      exec (.writePwHi win v val) s = .next (s.setChip i c')
        ∧ getPulse c' v = val.extractLsb' 0 4 ++ (getPulse c v).extractLsb' 0 8 ∧ onlyChip i s (s.setChip i c')

/-- WRITE to WAVE (40_register_access.md R139, D4): the byte goes to the oscillator and to the envelope. -/
def Obligations.WaveWrite : Prop :=
  ∀ (win : BitVec 11) (v : Voice) (val : Byte) (s : State) (i : Fin 10),
    s.reaches (busAddr win (voiceReg v 4)) i →
      let c := s.chip i
      let d := (detectSample (busAddr win (voiceReg v 4)) val { c with life := .active }).1
      let c' : Chip := { c with
        life := .active, bus := val, det := d.det, mute := d.mute
        regs := c.regs.set v { c.regs.get v with wave := val }
        osc := c.osc.set v (Config.oscWrite (c.osc.get v) .wave val)
        env := c.env.set v (Config.envWrite (c.env.get v) .wave val) }
      exec (.writeWave win v val) s = .next (s.setChip i c')
        ∧ getWave c' v = val ∧ onlyChip i s (s.setChip i c')

/-- WRITE to FC_LO, FC_HI and RES_FILT (40_register_access.md R145 to R147, D6, D7): each field of the filter that the
byte holds and no other; these offsets reach no algorithm and no PSID latch, so nothing of the detector and no mute changes
(43_digi_detector.md R216, 20_memory.md R71). -/
def Obligations.CutoffAndRoutingWrites : Prop :=
  ∀ (win : BitVec 11) (val : Byte) (s : State) (i : Fin 10),
    (s.reaches (busAddr win 0x15) i →
      let c := s.chip i
      let c' : Chip := { c with
        life := .active, bus := val
        filter := { c.filter with cutoff := c.filter.cutoff.extractLsb' 3 8 ++ val.extractLsb' 0 3 } }
      exec (.writeFcLo win val) s = .next (s.setChip i c') ∧ onlyChip i s (s.setChip i c'))
    ∧ (s.reaches (busAddr win 0x16) i →
      let c := s.chip i
      let c' : Chip := { c with
        life := .active, bus := val
        filter := { c.filter with cutoff := val ++ c.filter.cutoff.extractLsb' 0 3 } }
      exec (.writeFcHi win val) s = .next (s.setChip i c') ∧ onlyChip i s (s.setChip i c'))
    ∧ (s.reaches (busAddr win 0x17) i →
      let c := s.chip i
      let c' : Chip := { c with
        life := .active, bus := val
        filter := { c.filter with
          filt := ⟨val.getLsbD 0, val.getLsbD 1, val.getLsbD 2⟩, res := val.extractLsb' 4 4 } }
      exec (.writeResFilt win val) s = .next (s.setChip i c') ∧ onlyChip i s (s.setChip i c'))

/-- WRITE to MODE_VOL (40_register_access.md R148, D11): the mode bits, the disconnect bit and the master volume; with all
three mode bits 0 every filter history is flushed, `EXT_Y` never. -/
def Obligations.ModeVolWrite : Prop :=
  ∀ (win : BitVec 11) (val : Byte) (s : State) (i : Fin 10),
    s.reaches (busAddr win 0x18) i →
      let c := s.chip i
      let d := (detectSample (busAddr win 0x18) val { c with life := .active }).1
      let off := val.extractLsb' 4 3 = 0
      let c' : Chip := { c with
        life := .active, bus := val, det := d.det, mute := d.mute, vol := val.extractLsb' 0 4
        filter := { c.filter with
          lp := val.getLsbD 4, bp := val.getLsbD 5, hp := val.getLsbD 6, v3off := val.getLsbD 7
          fh := if off then ⟨0, 0, 0⟩ else c.filter.fh
          fs := if off then ⟨⟨0, 0, 0⟩, ⟨0, 0, 0⟩, ⟨0, 0, 0⟩⟩ else c.filter.fs } }
      exec (.writeModeVol win val) s = .next (s.setChip i c') ∧ onlyChip i s (s.setChip i c')

/-- WRITE to an unmapped offset (40_register_access.md R149, D32): the bus latch, and of the detector, where it is enabled,
what `psidLatch` of the full address leaves (43_digi_detector.md R216). Every pseudo-register of the PSID player is a bus
address at such an offset (20_memory.md R71, D29). -/
def Obligations.UnmappedWrite : Prop :=
  (∀ (addr : Addr) (val : Byte) (s : State) (i : Fin 10),
    (Instr.writeUnmapped addr val).wellFormed = true → s.reaches addr i →
      let c := s.chip i
      let p := if c.det.en = true then (psidLatch addr val c).det.psid else c.det.psid
      let c' : Chip := { c with life := .active, bus := val, det := { c.det with psid := p } }
      exec (.writeUnmapped addr val) s = .next (s.setChip i c') ∧ onlyChip i s (s.setChip i c'))
    ∧ ∀ (r : PsidReg) (sel : BitVec 8) (data : BitVec 32),
        0xD000 ≤ (psidMap r).toNat ∧ (psidMap r).toNat ≤ 0xDFFF
        ∧ decodeFields 0x01 sel (psidMap r) data = .writeUnmapped (psidMap r) (data.extractLsb' 0 8)

/-! ### READ and PEEK -/

/-- READ of any offset but 0x1B and 0x1C answers `BUS`, which is 0 after a chip reset, and changes nothing else; a byte
written to either cutoff register reads back, and after a later write to another register that later byte does
(40_register_access.md R159). -/
def Obligations.ReadAnswersBusLatch : Prop :=
  (∀ (addr : Addr) (s : State) (i : Fin 10), (Instr.readBus addr).wellFormed = true → s.reaches addr i →
      exec (.readBus addr) s = .next { s with responses := s.responses ++ [(s.chip i).bus.setWidth 32] })
    ∧ (∀ (s t : State) (c : BitVec 8) (i : Fin 10), chipIndex c = some i → exec (.reset c) s = .next t →
        (t.chip i).bus = 0)
    ∧ ∀ (win : BitVec 11) (val : Byte) (s : State) (i : Fin 10),
        (s.reaches (busAddr win 0x15) i → ∃ t u, exec (.writeFcLo win val) s = .next t
          ∧ exec (.readBus (busAddr win 0x15)) t = .next u ∧ u.responses = s.responses ++ [val.setWidth 32])
        ∧ (s.reaches (busAddr win 0x16) i → ∃ t u, exec (.writeFcHi win val) s = .next t
          ∧ exec (.readBus (busAddr win 0x16)) t = .next u ∧ u.responses = s.responses ++ [val.setWidth 32])
        ∧ (∀ later : Byte, s.reaches (busAddr win 0x16) i → s.reaches (busAddr win (voiceReg .v0 0)) i →
            ∃ t, execAll [.writeFcHi win val, .writeFreqLo win .v0 later, .readBus (busAddr win 0x16)] s = .next t
              ∧ t.responses = s.responses ++ [later.setWidth 32])

/-- READ of OSC3 and ENV3 answers the live outputs of voice index 2; PEEK answers what READ answers; none of the five
changes any state of the block (40_register_access.md R156 to R161, D8, 20_memory.md R70). -/
def Obligations.LiveReadsAndPeeks : Prop :=
  ∀ (win : BitVec 11) (addr : Addr) (s : State) (i : Fin 10),
    (s.reaches (busAddr win 0x1B) i →
      let t := { s with responses := s.responses ++ [(Config.osc3Read ((s.chip i).osc.get .v2)).setWidth 32] }
      exec (.readOsc3 win) s = .next t ∧ exec (.peekOsc3 win) s = .next t)
    ∧ (s.reaches (busAddr win 0x1C) i →
      let t := { s with responses := s.responses ++ [(Config.env3Read ((s.chip i).env.get .v2)).setWidth 32] }
      exec (.readEnv3 win) s = .next t ∧ exec (.peekEnv3 win) s = .next t)
    ∧ ((Instr.peekBus addr).wellFormed = true → s.reaches addr i →
      exec (.peekBus addr) s = .next { s with responses := s.responses ++ [(s.chip i).bus.setWidth 32] })

/-! ### CLOCK -/

/-- CLOCK: every oscillator's first pass, then hard sync over the three results, then every envelope, then the cycle
counter modulo 2^32; a muted voice is clocked like any other (41_clock.md R181, D38). -/
def Obligations.ClockAdvancesOneCycle : Prop :=
  ∀ (c : BitVec 8) (s : State) (i : Fin 10), s.selects c i →
    let k := s.chip i
    let k' : Chip := { k with
      life := .active
      osc := Config.oscSync
        ⟨Config.oscClock1 k.osc.v0, Config.oscClock1 k.osc.v1, Config.oscClock1 k.osc.v2⟩
      env := ⟨Config.envClock k.env.v0, Config.envClock k.env.v1, Config.envClock k.env.v2⟩
      cyc := k.cyc + 1 }
    exec (.clock c) s = .next (s.setChip i k') ∧ k'.cyc.toNat = (k.cyc.toNat + 1) % 2 ^ 32
      ∧ onlyChip i s (s.setChip i k')

/-- CLOCKALL is CLOCK of every chip in use, in any order; it advances each one's cycle counter by one, so that equal
counters stay equal, and with no chip in use it does nothing (41_clock.md R183). -/
def Obligations.ClockAllClocksEveryChip : Prop :=
  ∀ s : State, s.activeInitialised = true →
    ∃ t, exec .clockAll s = .next t
      ∧ (∀ l : List (Fin 10), l.Perm (activeChips s) →
          execAll (l.map fun i => Instr.clock (BitVec.ofNat 8 i.val)) s = .next t)
      ∧ (∀ j : Fin 10, (t.chip j).cyc = if j.val < s.registry.nUsed.val then (s.chip j).cyc + 1 else (s.chip j).cyc)
      ∧ (∀ j : Fin 10, s.registry.nUsed.val ≤ j.val → t.chip j = s.chip j)
      ∧ (∀ j k : Fin 10, j.val < s.registry.nUsed.val → k.val < s.registry.nUsed.val →
          (s.chip j).cyc = (s.chip k).cyc → (t.chip j).cyc = (t.chip k).cyc)
      ∧ (s.registry.nUsed = 0 → t = s)
      ∧ sameOutsideChips s t ∧ t.ramReads = s.ramReads ∧ sameMemory s t

/-! ### SYNTH -/

/-- SYNTH stores one clipped sample in the word of the chip's own channel, overwriting or accumulating; writes the trace
words of the frame only with tracing on, each voice's word its level through the voice's own filter history (0 for a muted
or a disconnected voice) and the digi's word the scaled digi level, each at the master volume and clipped; moves of the
chip only `LIFE`, the filter's histories, `EXT_Y` and the PSID player; and changes nothing else (44_render.md R291, R302,
R303, 42_filter.md R196, 43_digi_detector.md R260, 20_memory.md R72, D17, D19, D36, D37; the byte layout of the buffers is
entry 8, the count of RAM reads entry 7). -/
def Obligations.SynthStoresOneSample : Prop :=
  ∀ (c : BitVec 8) (scale : Byte) (clearFlag traceEn : Bool) (offset : BitVec 32) (s : State) (i : Fin 10),
    s.selects c i →
      let k := s.chip i
      let q := synthTick s.registry.extEn traceEn scale s.ramReads k
      let idx := pcmIndex offset k.chan
      let level (v : Voice) : Int :=
        Int.tdiv ((((Config.envOut (k.env.get v)).toNat : Int) * ((Config.waveOut k.osc v).toNat - k.wfz) + k.daco)
          * scale.toNat) 255
      let digi : Int :=
        if k.det.en = false ∨ k.det.src = .unused then 0
        else Int.tdiv (((k.det.sample.toNat : Int) * 0x101 - 0x8000) * Config.digiGain * scale.toNat) 255
      let filtered (v : Voice) : Prop :=
        k.filter.filt.get v = true ∧ (k.filter.lp = true ∨ k.filter.bp = true ∨ k.filter.hp = true)
      let sim (v : Voice) : Int × Hist :=
        Config.filterXfer
          ⟨k.model, k.filter.cutoff, k.filter.res, k.filter.lp, k.filter.bp, k.filter.hp, k.srate⟩
          (k.filter.fs.get v) (level v)
      let word (x : Int) : Int := clip (Int.tdiv (x * k.vol.toNat) outDiv)
      ∃ t, exec (.synth c scale clearFlag traceEn offset) s = .next t
        ∧ t.chip i = q.chip
        ∧ q.chip = { k with
            life := .active
            filter := { k.filter with fh := q.chip.filter.fh, fs := q.chip.filter.fs, extY := q.chip.filter.extY }
            det := { k.det with psid := q.chip.det.psid } }
        ∧ (traceEn = false → q.chip.filter.fs = k.filter.fs)
        ∧ (∀ j, j ≠ i → t.chip j = s.chip j) ∧ sameOutsideChips s t ∧ t.ramReads = q.reads
        ∧ -32767 ≤ q.y ∧ q.y ≤ 32767
        ∧ (Memory.wf s.pcm = true →
            readSample t.pcm idx = if clearFlag then q.y else clip (readSample s.pcm idx + q.y))
        ∧ pcmSameBut (some idx) s t
        ∧ tracesSameBut (if traceEn then some offset.toNat else none) s t
        ∧ (traceEn = true →
            (∀ v, Memory.wf (s.traces.voice.get v) = true →
              readSample (t.traces.voice.get v) offset.toNat = q.t.get v)
            ∧ (Memory.wf s.traces.digi = true → readSample t.traces.digi offset.toNat = q.digi)
            ∧ q.digi = word digi
            ∧ ∀ v,
                (k.mute.get v = true → q.t.get v = 0 ∧ q.chip.filter.fs.get v = k.filter.fs.get v)
                ∧ (k.mute.get v = false → filtered v →
                    q.t.get v = word (sim v).1 ∧ q.chip.filter.fs.get v = (sim v).2)
                ∧ (k.mute.get v = false → ¬ filtered v →
                    q.t.get v = (if v = .v2 ∧ k.filter.filt.v2 = false ∧ k.filter.v3off = true then 0 else word (level v))
                    ∧ q.chip.filter.fs.get v = k.filter.fs.get v))

/-- The sample of a chip with every filter mode off, the external filter off, no digi and no player: the sum over the
voices that are neither muted nor a disconnected voice 3 of `(e × (w - WFZ) + DACO) × S / 255`, times `VOL` over
`OUT_DIV`, each division truncated toward zero, clipped (44_render.md R293, R294, R295, R297, 42_filter.md R194, D13, D14,
D15). -/
def Obligations.SampleIsTheSumOfTheVoices : Prop :=
  ∀ (c : Chip) (traceEn : Bool) (scale : Byte) (reads : Nat),
    modesOff c.filter = true → digiOff c.det = true → psidRuns c = false →
      let level (v : Voice) : Int :=
        if c.mute.get v = true ∨ (v = .v2 ∧ c.filter.filt.v2 = false ∧ c.filter.v3off = true) then 0
        else
          Int.tdiv ((((Config.envOut (c.env.get v)).toNat : Int) * ((Config.waveOut c.osc v).toNat - c.wfz) + c.daco)
            * scale.toNat) 255
      (synthTick false traceEn scale reads c).y
        = clip (Int.tdiv ((level .v0 + level .v1 + level .v2) * c.vol.toNat) outDiv)

/-- SYNTH_STRIPPED stores one clipped sample and skips the digi, the PSID player and the traces, and not the mutes: what it
stores, and the chip it leaves, are those of SYNTH without tracing on the same state with that chip's detector disabled and
its mutes kept, whatever digi is latched and whether or not the player runs; where there is no digi to skip and no player
running it is SYNTH without tracing (44_render.md R305, D36). -/
def Obligations.StrippedSkipsDigiAndTraces : Prop :=
  ∀ (c : BitVec 8) (scale : Byte) (clearFlag : Bool) (offset : BitVec 32) (s : State) (i : Fin 10),
    s.selects c i →
      let k := s.chip i
      let q := strippedTick s.registry.extEn scale k
      let idx := pcmIndex offset k.chan
      let silent : State := s.setChip i { k with det := { k.det with en := false } }
      ∃ t, exec (.synthStripped c scale clearFlag offset) s = .next t
        ∧ t.chip i = { k with
            life := .active, filter := { k.filter with fh := q.1.filter.fh, extY := q.1.filter.extY } }
        ∧ (∀ j, j ≠ i → t.chip j = s.chip j) ∧ sameOutsideChips s t ∧ t.ramReads = s.ramReads
        ∧ -32767 ≤ q.2 ∧ q.2 ≤ 32767
        ∧ (Memory.wf s.pcm = true →
            readSample t.pcm idx = if clearFlag then q.2 else clip (readSample s.pcm idx + q.2))
        ∧ pcmSameBut (some idx) s t ∧ tracesSameBut none s t
        ∧ (∀ reads,
            q.2 = (synthTick s.registry.extEn false scale reads { k with det := { k.det with en := false } }).y)
        ∧ (∃ u, exec (.synth c scale clearFlag false offset) silent = .next u
            ∧ t = u.setChip i { u.chip i with det := k.det })
        ∧ (digiOff k.det = true → psidRuns k = false → exec (.synth c scale clearFlag false offset) s = .next t)

/-- SYNTHALL is SYNTH of each chip in use in index order, scaled by `VOLMAP` of the number of chips on its channel, the
first chip of a channel overwriting and the others accumulating, chip 0 alone tracing; a channel no chip plays on is not
written; one chip alone is rendered at full scale (45_registry.md R343, D14). -/
def Obligations.SynthAllRendersEveryChip : Prop :=
  ∀ (traceEn : Bool) (offset : BitVec 32) (s : State), s.activeInitialised = true →
    let onChannel (i : Fin 10) : Nat := ((activeChips s).filter fun j => (s.chip j).chan = (s.chip i).chan).length
    let turns : List Instr := (activeChips s).map fun i =>
      .synth (BitVec.ofNat 8 i.val) (volMap (Fin.ofNat 10 (onChannel i - 1)))
        (decide (∀ j : Fin 10, j < i → (s.chip j).chan ≠ (s.chip i).chan)) (traceEn && decide (i = 0)) offset
    ∃ t, exec (.synthAll traceEn offset) s = .next t ∧ execAll turns s = .next t
      ∧ (s.registry.nUsed = 1 → exec (.synth 0 255 true traceEn offset) s = .next t)
      ∧ (∀ j : Fin 10, s.registry.nUsed.val ≤ j.val → t.chip j = s.chip j)
      ∧ sameOutsideChips s t
      ∧ (∀ a, (∀ i ∈ activeChips s, a ≠ 2 * pcmIndex offset (s.chip i).chan
            ∧ a ≠ 2 * pcmIndex offset (s.chip i).chan + 1) → readByte t.pcm a = readByte s.pcm a)
      ∧ tracesSameBut (if traceEn then some offset.toNat else none) s t

/-- SYNTHALL_STRIPPED is the loop of SYNTHALL with SYNTH_STRIPPED in place of SYNTH; no traces (45_registry.md R344). -/
def Obligations.SynthAllStrippedRendersEveryChip : Prop :=
  ∀ (offset : BitVec 32) (s : State), s.activeInitialised = true →
    let onChannel (i : Fin 10) : Nat := ((activeChips s).filter fun j => (s.chip j).chan = (s.chip i).chan).length
    let turns : List Instr := (activeChips s).map fun i =>
      .synthStripped (BitVec.ofNat 8 i.val) (volMap (Fin.ofNat 10 (onChannel i - 1)))
        (decide (∀ j : Fin 10, j < i → (s.chip j).chan ≠ (s.chip i).chan)) offset
    ∃ t, exec (.synthAllStripped offset) s = .next t ∧ execAll turns s = .next t
      ∧ (∀ j : Fin 10, s.registry.nUsed.val ≤ j.val → t.chip j = s.chip j)
      ∧ sameOutsideChips s t ∧ t.ramReads = s.ramReads
      ∧ (∀ a, (∀ i ∈ activeChips s, a ≠ 2 * pcmIndex offset (s.chip i).chan
            ∧ a ≠ 2 * pcmIndex offset (s.chip i).chan + 1) → readByte t.pcm a = readByte s.pcm a)
      ∧ tracesSameBut none s t

/-! ### CONFIG, RESET, RESETALL, SETMODELS -/

/-- CONFIG writes its own configuration register and nothing else, at any time; slot 0 keeps 0xD400 whatever address is
written (45_registry.md R331 to R336, 10_state.md R52, D30, D35). -/
def Obligations.ConfigWritesItsRegister : Prop :=
  ∀ (s : State) (n : BitVec 32) (count : BitVec 4) (f0 f1 f2 f3 : Bool) (slot : Fin 10) (base : Addr) (m : Bool)
      (ovr : BitVec 2) (chan : BitVec 1),
    exec (.configSrate n) s = .next { s with registry := { s.registry with cfgSrate := n } }
    ∧ exec (.configCrate n) s = .next { s with registry := { s.registry with cfgCrate := n } }
    ∧ exec (.configFlags f0 f1 f2 f3) s = .next { s with registry :=
        { s.registry with cfgRealFile := f0, cfgCompat := f1, cfgExtMulti := f2, extEn := f3 } }
    ∧ exec (.configCount count) s = .next { s with registry := { s.registry with cfgCount := count } }
    ∧ ∃ slots : Vector Slot 10, exec (.configChip slot base m ovr chan) s
          = .next { s with registry := { s.registry with slots := slots } }
        ∧ (slots[slot]).addr = (if slot = 0 then 0xD400 else base) ∧ (slots[slot]).m6581 = m
        ∧ (slots[slot]).ovr = ovr ∧ (slots[slot]).chan = chan
        ∧ ∀ j : Fin 10, j ≠ slot → slots[j] = s.registry.slots[j]

/-- RESET of a chip in any state of its life gives every field of the chip a value and touches nothing else: the seven
arguments from the configuration, the effective model by the 2-bit override, the constants of that model, master volume
15, everything else zero, idle, none, the detector enabled with the sample 0x80 (45_registry.md R337, R338, R342,
43_digi_detector.md R275, 10_state.md R60, D30, D31). At a zero rate it is refused. -/
def Obligations.ResetGivesEveryFieldAValue : Prop :=
  ∀ (c : BitVec 8) (s : State) (i : Fin 10), chipIndex c = some i →
    ((s.registry.cfgSrate = 0 ∨ s.registry.cfgCrate = 0) → exec (.reset c) s = .refused .badRate)
    ∧ (s.registry.cfgSrate ≠ 0 → s.registry.cfgCrate ≠ 0 →
      let slot := s.registry.slots[i]
      let m : ChipModel :=
        if slot.ovr = 1 then .mos6581 else if slot.ovr = 2 then .mos8580
        else if slot.m6581 then .mos6581 else .mos8580
      let t := s.setChip i
        { life := .reset, base := if i = 0 then 0xD400 else slot.addr, model := m, srate := s.registry.cfgSrate,
          crate := s.registry.cfgCrate, realFile := s.registry.cfgRealFile, compat := s.registry.cfgCompat,
          chan := slot.chan, wfz := Config.wfZero m, daco := dacOffset m,
          regs := perVoice ⟨0, 0, 0, 0, 0, 0, 0⟩, bus := 0, vol := 15, mute := perVoice false, cyc := 0,
          osc := perVoice (Config.oscReset m), env := perVoice (Config.envReset m),
          filter := ⟨0, 0, perVoice false, false, false, false, false, ⟨0, 0, 0⟩, perVoice ⟨0, 0, 0⟩, 0⟩,
          det := { en := true, type := .none, src := .unused, sample := 0x80, count := 0, muted := perVoice false,
                   fm := perVoice ⟨.idle, 0, 0⟩, pw := perVoice ⟨.idle, 0, 0⟩, sw := perVoice none,
                   psid := ⟨0, 0, 0, 0, 0, 0, false, 0, 0, 0, 0⟩ } }
      exec (.reset c) s = .next t ∧ onlyChip i s t)

/-- RESETALL is refused for a zero rate first, then for an illegal base of an extra chip in use: outside 0xD000..0xDFFF,
no multiple of 32, a middle byte from 0x80 to 0xDF, 0xD400, or the base of an extra chip before it; otherwise it completes
(45_registry.md R339, R340, 20_memory.md R64, R66, 60_exceptions.md R363, D10, D30). -/
def Obligations.ResetAllRefusals : Prop :=
  ∀ s : State,
    let r := s.registry
    let bound := if r.cfgExtMulti then 10 else 3
    let n := max 1 (min bound r.cfgCount.toNat)
    let bad (i : Fin 10) : Prop :=
      let b := (r.slots[i]).addr
      b.toNat < 0xD000 ∨ 0xDFFF < b.toNat ∨ b.toNat % 32 ≠ 0 ∨ (0x80 ≤ b.toNat / 16 % 256 ∧ b.toNat / 16 % 256 ≤ 0xDF)
        ∨ b = 0xD400 ∨ ∃ j : Fin 10, 0 < j.val ∧ j.val < i.val ∧ (r.slots[j]).addr = b
    ((r.cfgSrate = 0 ∨ r.cfgCrate = 0) → exec .resetAll s = .refused .badRate)
    ∧ (¬ (r.cfgSrate = 0 ∨ r.cfgCrate = 0) → (∃ i : Fin 10, 0 < i.val ∧ i.val < n ∧ bad i) →
        exec .resetAll s = .refused .badBase)
    ∧ (¬ (r.cfgSrate = 0 ∨ r.cfgCrate = 0) → (¬ ∃ i : Fin 10, 0 < i.val ∧ i.val < n ∧ bad i) →
        ∃ t, exec .resetAll s = .next t)

/-- RESETALL clamps the chip count to 1..3 or 1..10, resets every chip in use as RESET does, leaves every other chip and
every configuration register alone, and rebuilds the address table: each extra chip's 32-byte window is its own, the rest
of 0xD400..0xD7FF is chip 0's, and nothing else is mapped (45_registry.md R339 to R341, 70_reset_and_hazards.md R386,
R387, 20_memory.md R64, D10, D30; the form of the table is entry 11). -/
def Obligations.ResetAllRebuildsTheBus : Prop :=
  ∀ s : State, s.resetAllLegal = true →
    let r := s.registry
    let bound := if r.cfgExtMulti then 10 else 3
    let n := max 1 (min bound r.cfgCount.toNat)
    let window (i : Fin 10) (a : Addr) : Prop :=
      0 < i.val ∧ i.val < n ∧ (r.slots[i]).addr.toNat ≤ a.toNat ∧ a.toNat < (r.slots[i]).addr.toNat + 32
    ∃ t, exec .resetAll s = .next t
      ∧ t.registry = { r with nUsed := t.registry.nUsed, lut := t.registry.lut }
      ∧ t.registry.nUsed.val = n
      ∧ (∀ i : Fin 10, i.val < n → exec (.reset (BitVec.ofNat 8 i.val)) s = .next (s.setChip i (t.chip i)))
      ∧ (∀ i : Fin 10, n ≤ i.val → t.chip i = s.chip i)
      ∧ t.port = s.port ∧ t.responses = s.responses ∧ t.ramReads = s.ramReads ∧ sameMemory s t
      ∧ (∀ (a : Addr) (i : Fin 10), window i a → busChip t a = some i)
      ∧ ∀ a : Addr, (¬ ∃ i, window i a) →
          busChip t a = if 0xD400 ≤ a.toNat ∧ a.toNat ≤ 0xD7FF then some 0 else none

/-- SETMODELS gives every chip in use its model bit, the two constants of that model and empty filter histories, and
changes nothing else: no register, voice, detector, `EXT_Y`, `VOL` or configuration register (45_registry.md R345,
30_encoding.md R111, D30). That it also completes where a chip in use was never reset, which no run reaches, is entry 17.
-/
def Obligations.SetModelsReplacesTheModel : Prop :=
  ∀ (bits : BitVec 10) (s : State),
    ∃ t, exec (.setModels bits) s = .next t
      ∧ (∀ i : Fin 10, i.val < s.registry.nUsed.val →
          let m : ChipModel := if bits.getLsbD i.val then .mos6581 else .mos8580
          t.chip i = { s.chip i with
            model := m, wfz := Config.wfZero m, daco := dacOffset m
            filter := { (s.chip i).filter with fh := ⟨0, 0, 0⟩, fs := perVoice ⟨0, 0, 0⟩ } })
      ∧ (∀ i : Fin 10, s.registry.nUsed.val ≤ i.val → t.chip i = s.chip i)
      ∧ sameOutsideChips s t ∧ t.ramReads = s.ramReads ∧ sameMemory s t

/-! ### DIGI_CTRL and DIGI_QUERY -/

/-- RESETCOUNT: a window that closes without a sample ends the technique and restores the voices it muted; any other
window only restarts the count (43_digi_detector.md R272, R274, D27). -/
def Obligations.ResetCountClosesTheWindow : Prop :=
  ∀ (c : BitVec 8) (s : State) (i : Fin 10), s.selects c i →
    let k := s.chip i
    let restored (v : Voice) : Bool := if k.det.muted.get v then false else k.mute.get v
    let empty := k.det.count = 0 ∧ k.det.type ≠ .none
    let k' : Chip :=
      if empty then
        { k with
          mute := ⟨restored .v0, restored .v1, restored .v2⟩
          det := { k.det with muted := perVoice false, type := .none, src := .unused, count := 0 } }
      else { k with det := { k.det with count := 0 } }
    exec (.digiCtrlResetCount c) s = .next (s.setChip i k') ∧ onlyChip i s (s.setChip i k')

/-- DISABLE restores the mutes, clears the technique and the automata, stops the player, and leaves a detector that sees no
write, adds nothing to a sample and plays nothing; ENABLE sets the enable bit alone; RESET of the detector gives it its
reset values after restoring the mutes. None moves `LIFE` (43_digi_detector.md R273 to R275, R216, D21, D31). -/
def Obligations.DetectorLifecycle : Prop :=
  ∀ (c : BitVec 8) (s : State) (i : Fin 10), s.selects c i →
    let k := s.chip i
    let restored (v : Voice) : Bool := if k.det.muted.get v then false else k.mute.get v
    let disabled : Chip := { k with
      mute := ⟨restored .v0, restored .v1, restored .v2⟩
      det := { k.det with
        en := false, type := .none, src := .unused, count := 0, muted := perVoice false
        fm := perVoice ⟨.idle, 0, 0⟩, pw := perVoice ⟨.idle, 0, 0⟩, sw := perVoice none
        psid := { k.det.psid with pdActive := false } } }
    let enabled : Chip := { k with det := { k.det with en := true } }
    let reset : Chip := { k with
      mute := ⟨restored .v0, restored .v1, restored .v2⟩
      det := { en := true, type := .none, src := .unused, sample := 0x80, count := 0, muted := perVoice false,
               fm := perVoice ⟨.idle, 0, 0⟩, pw := perVoice ⟨.idle, 0, 0⟩, sw := perVoice none,
               psid := ⟨0, 0, 0, 0, 0, 0, false, 0, 0, 0, 0⟩ } }
    exec (.digiCtrlDisable c) s = .next (s.setChip i disabled)
    ∧ (∀ (a : Addr) (val : Byte), detectSample a val disabled = (disabled, false))
    ∧ (∀ (sm : Sums) (scale : Byte), routeDigi disabled sm scale = sm)
    ∧ (∀ reads : Nat, psidLevel reads disabled = 0 ∧ psidAdvance disabled = disabled)
    ∧ exec (.digiCtrlEnable c) s = .next (s.setChip i enabled)
    ∧ exec (.digiCtrlReset c) s = .next (s.setChip i reset)
    ∧ onlyChip i s (s.setChip i disabled) ∧ onlyChip i s (s.setChip i enabled) ∧ onlyChip i s (s.setChip i reset)

/-- DIGI_QUERY answers the type code, or the window's sample count once it has reached `DIGI_MIN_COUNT` with a technique
active and 0 before, or 0 for the reserved sub-operation, and writes no state (43_digi_detector.md R276 to R278,
30_encoding.md R113, D20, D27; the reserved one at a chip that was never reset is entry 13). -/
def Obligations.DigiQueriesAnswer : Prop :=
  ∀ (c : BitVec 8) (s : State) (i : Fin 10), s.selects c i →
    let d := (s.chip i).det
    let code : BitVec 32 := match d.type with
      | .none => 0 | .fm => 1 | .pwm => 2 | .swallow => 3 | .d418 => 4 | .m418 => 5
    exec (.digiQueryType c) s = .next { s with responses := s.responses ++ [code] }
    ∧ exec (.digiQueryDesc c) s = .next { s with responses := s.responses ++ [code] }
    ∧ exec (.digiQueryReserved c) s = .next { s with responses := s.responses ++ [0] }
    ∧ (d.type = .none ∨ d.count.toNat < Config.digiMinCount →
        exec (.digiQueryRate c) s = .next { s with responses := s.responses ++ [0] })
    ∧ (¬ (d.type = .none ∨ d.count.toNat < Config.digiMinCount) →
        exec (.digiQueryRate c) s = .next { s with responses := s.responses ++ [d.count] })

/-! ### The detector -/

/-- Restoring unmutes exactly the voices the detector muted; it is what a change of source, an empty window, a disable and
a detector reset do to the mutes; and since nothing else in the block sets a mute, no voice stays muted after it
(43_digi_detector.md R224). -/
def Obligations.RestoreMutes : Prop :=
  ∀ c : Chip,
    (∀ v, (restoreMutes c).mute.get v = if c.det.muted.get v then false else c.mute.get v)
    ∧ (∀ v, (restoreMutes c).det.muted.get v = false)
    ∧ (∀ type src, (c.det.type ≠ type ∨ c.det.src ≠ src) →
        (setSource type src c).mute = (restoreMutes c).mute
          ∧ (setSource type src c).det.muted = (restoreMutes c).det.muted)
    ∧ (c.det.count = 0 → c.det.type ≠ .none →
        (resetCount c).mute = (restoreMutes c).mute ∧ (resetCount c).det.muted = (restoreMutes c).det.muted)
    ∧ (disableDetector c).mute = (restoreMutes c).mute ∧ (disableDetector c).det.muted = (restoreMutes c).det.muted
    ∧ (detectorReset c).mute = (restoreMutes c).mute ∧ (detectorReset c).det.muted = (restoreMutes c).det.muted
    ∧ (c.mutesFollowSource → (restoreMutes c).mute = perVoice false)

/-- The FM sequence on voice `v` in both orderings: triangle+gate, test+gate, then either gate-only and the frequency-high
byte, or the frequency-high byte and gate-only, with `a`, `b` and `g` cycles between: with every gap below the timeout the
byte is captured, the source is the voice, the voice is muted; with any gap at or above it nothing is captured. The
automata of the other voices do not move (43_digi_detector.md R228, R230 to R232, 41_clock.md R184, D22, D23). -/
def Obligations.FmSequenceCaptures : Prop :=
  ∀ (win : BitVec 11) (v : Voice) (val : Byte) (c : BitVec 8) (i : Fin 10) (a b g : Nat) (frequencyFirst : Bool) (s : State),
    s.reaches (busAddr win (voiceReg v 4)) i → s.reaches (busAddr win (voiceReg v 1)) i → chipIndex c = some i →
    (s.chip i).det.en = true → a < 2 ^ 32 → b < 2 ^ 32 → g < 2 ^ 32 →
      let gate := Instr.writeWave win v 0x01
      let payload := Instr.writeFreqHi win v val
      ∃ t, execAll ([Instr.writeWave win v 0x11] ++ List.replicate a (.clock c) ++ [.writeWave win v 0x09]
            ++ List.replicate b (.clock c) ++ [if frequencyFirst then payload else gate] ++ List.replicate g (.clock c)
            ++ [if frequencyFirst then gate else payload]) s = .next t
        ∧ (if a < Config.fmTimeout ∧ b < Config.fmTimeout ∧ g < Config.fmTimeout then
            (t.chip i).det.type = .fm ∧ (t.chip i).det.src = .voice v ∧ (t.chip i).det.sample = val
              ∧ (t.chip i).mute.get v = true ∧ (t.chip i).det.muted.get v = true
              ∧ ((t.chip i).det.fm.get v).phase = .idle
          else
            (t.chip i).det.type = (s.chip i).det.type ∧ (t.chip i).det.src = (s.chip i).det.src
              ∧ (t.chip i).det.sample = (s.chip i).det.sample ∧ (t.chip i).det.count = (s.chip i).det.count
              ∧ (t.chip i).mute = (s.chip i).mute)
        ∧ ∀ u, u ≠ v → (t.chip i).det.fm.get u = (s.chip i).det.fm.get u

/-- The PWM-test sequence on voice `v` in both orderings: the pulse-width-low byte and pulse+test+gate in one order (A) or
the other (B), then pulse+gate, with `a` and `b` cycles between, where the automaton is not already past the first step of
the other ordering: with both gaps below the timeout the byte is captured, the source is the voice, the voice is muted;
with a gap at or above it nothing is captured, unless Swallow, which watches the same register, takes the byte
(43_digi_detector.md R228, R240, R241, R248, R249, D22, D24). -/
def Obligations.PwmTestSequenceCaptures : Prop :=
  ∀ (win : BitVec 11) (v : Voice) (val : Byte) (c : BitVec 8) (i : Fin 10) (a b : Nat) (testFirst : Bool) (s : State),
    s.reaches (busAddr win (voiceReg v 2)) i → s.reaches (busAddr win (voiceReg v 4)) i → chipIndex c = some i →
    (s.chip i).det.en = true → a < 2 ^ 32 → b < 2 ^ 32 →
    ((s.chip i).det.pw.get v).phase ≠ (if testFirst then .prepA else .prepB) →
      let test := Instr.writeWave win v 0x49
      let payload := Instr.writePwLo win v val
      let envelope := getAD (s.chip i) v = 0x00 ∧ getSR (s.chip i) v = 0xF0
      let swallowQuiet :=
        ¬ envelope
          ∨ ((s.chip i).det.sw.get v = none
              ∧ (testFirst = true → Config.swallowTrans (getWave (s.chip i) v) 0x49 = false))
      ∃ t, execAll ([if testFirst then test else payload] ++ List.replicate a (.clock c)
            ++ [if testFirst then payload else test] ++ List.replicate b (.clock c) ++ [.writeWave win v 0x41]) s = .next t
        ∧ (a < Config.pwmTimeout ∧ b < Config.pwmTimeout →
            (t.chip i).det.type = .pwm ∧ (t.chip i).det.src = .voice v ∧ (t.chip i).det.sample = val
              ∧ (t.chip i).mute.get v = true ∧ (t.chip i).det.muted.get v = true)
        ∧ (¬ (a < Config.pwmTimeout ∧ b < Config.pwmTimeout) → swallowQuiet →
            (t.chip i).det.type = (s.chip i).det.type ∧ (t.chip i).det.src = (s.chip i).det.src
              ∧ (t.chip i).det.sample = (s.chip i).det.sample ∧ (t.chip i).det.count = (s.chip i).det.count
              ∧ (t.chip i).mute = (s.chip i).mute)
        ∧ ((t.chip i).det.pw.get v).phase = .idle

/-- Swallow: a waveform write that FM or PWM-test consumes is not seen and leaves the scheme as it is; every other one, a
timed-out pattern's among them, captures nothing and arms the smallest matching scheme under the envelope condition and the
transition. A pulse-width write, low or high, of an armed voice captures the payload its scheme unpacks from that register,
carries none, or disarms, and of a voice not armed captures nothing (43_digi_detector.md R216, R218, R225 to R228, R230,
R240, R247 to R249, D25). -/
def Obligations.SwallowArmsAndCaptures : Prop :=
  ∀ (win : BitVec 11) (v : Voice) (val : Byte) (s : State) (i : Fin 10), (s.chip i).det.en = true →
    let c := s.chip i
    let fm := c.det.fm.get v
    let pw := c.det.pw.get v
    let consumed :=
      (val = 0x01 ∧ fm.phase = .variant2 ∧ within c.cyc fm.ts Config.fmTimeout = true)
        ∨ (val = 0x41 ∧ (pw.phase = .confirmA ∨ pw.phase = .confirmB) ∧ within c.cyc pw.ts Config.pwmTimeout = true)
    let nothingCaptured (t : State) :=
      (t.chip i).det.type = c.det.type ∧ (t.chip i).det.src = c.det.src ∧ (t.chip i).det.sample = c.det.sample
        ∧ (t.chip i).det.count = c.det.count ∧ (t.chip i).mute = c.mute ∧ (t.chip i).det.muted = c.det.muted
    let envelope := getAD c v = 0x00 ∧ getSR c v = 0xF0
    let pulse (r : PulseReg) : Instr := match r with
      | .lo => .writePwLo win v val
      | .hi => .writePwHi win v val
    let pulseReg (r : PulseReg) : BitVec 5 := match r with
      | .lo => voiceReg v 2
      | .hi => voiceReg v 3
    (s.reaches (busAddr win (voiceReg v 4)) i →
        ∃ t, exec (.writeWave win v val) s = .next t
          ∧ (consumed → (t.chip i).det.sw.get v = c.det.sw.get v)
          ∧ (¬ consumed →
              nothingCaptured t
              ∧ (t.chip i).det.sw.get v =
                if envelope ∧ Config.swallowTrans (getWave c v) val = true then
                  if Config.swallowSig .k1 = (getPulse c v, getFreq c v) then some .k1
                  else if Config.swallowSig .k2 = (getPulse c v, getFreq c v) then some .k2
                  else if Config.swallowSig .k3 = (getPulse c v, getFreq c v) then some .k3
                  else none
                else c.det.sw.get v))
    ∧ ∀ r, s.reaches (busAddr win (pulseReg r)) i →
        ∃ t, exec (pulse r) s = .next t
          ∧ (∀ k, c.det.sw.get v = some k →
              (envelope → ∀ x, Config.swallowUnpack k r val = some x →
                (t.chip i).det.type = .swallow ∧ (t.chip i).det.src = .voice v ∧ (t.chip i).det.sample = x
                  ∧ (t.chip i).det.count.toNat =
                    (if c.det.type = .swallow ∧ c.det.src = .voice v then min (c.det.count.toNat + 1) (2 ^ 32 - 1)
                      else 1)
                  ∧ (t.chip i).mute.get v = true ∧ (t.chip i).det.muted.get v = true
                  ∧ (t.chip i).det.sw.get v = some k)
              ∧ ((¬ envelope ∨ Config.swallowUnpack k r val = none) →
                nothingCaptured t ∧ (t.chip i).det.sw.get v = if envelope then some k else none))
          ∧ (c.det.sw.get v = none → nothingCaptured t ∧ (t.chip i).det.sw.get v = none)

/-- A write to 0x18 with the detector enabled: under the five conditions a Mahoney sample that mutes every voice; else
nothing while a voice technique holds the source; else a plain D418 sample, the volume nibble widened to a byte. The
source's restart of the count on a change is seen in `DD_COUNT` (43_digi_detector.md R225, R226, R253 to R256, D26, D27). -/
def Obligations.VolumeWriteIsASample : Prop :=
  ∀ (win : BitVec 11) (val : Byte) (s : State) (i : Fin 10),
    s.reaches (busAddr win 0x18) i → (s.chip i).det.en = true →
      let c := s.chip i
      let mahoney :=
        (c.filter.filt.v0 = true ∧ c.filter.filt.v1 = true ∧ c.filter.filt.v2 = false) ∧ c.filter.cutoff = 0x7FF
          ∧ (getSR c .v0 = getSR c .v1 ∧ getSR c .v1 = getSR c .v2) ∧ 0xFB ≤ (getSR c .v0).toNat
          ∧ (getWave c .v0 = 0x49 ∧ getWave c .v1 = 0x49 ∧ getWave c .v2 = 0x49)
      let counted (type : DigiType) : Nat :=
        if c.det.type = type ∧ c.det.src = .volume then min (c.det.count.toNat + 1) (2 ^ 32 - 1) else 1
      ∃ t, exec (.writeModeVol win val) s = .next t
        ∧ (mahoney →
            (t.chip i).det.type = .m418 ∧ (t.chip i).det.src = .volume ∧ (t.chip i).mute = perVoice true
              ∧ (t.chip i).det.sample = Config.mahoneyTable val ∧ (t.chip i).det.count.toNat = counted .m418)
        ∧ (¬ mahoney → (∃ v, c.det.src = .voice v) →
            (t.chip i).det = c.det ∧ (t.chip i).mute = c.mute)
        ∧ (¬ mahoney → (¬ ∃ v, c.det.src = .voice v) →
            (t.chip i).det.type = .d418 ∧ (t.chip i).det.src = .volume
              ∧ (t.chip i).det.sample.toNat = val.toNat % 16 * 0x11 ∧ (t.chip i).det.count.toNat = counted .d418)

/-- The PSID latches (43_digi_detector.md R261 to R264, 20_memory.md R71, D29): written only where `REALFILE = 0` and only
at the full address that `PSID_MAP` gives a pseudo-register, so at none of the 25 mapped offsets; 0xFD stops the player,
0xFF and 0xFE start it at a period that is not 0, with the step of the two rates, and any other control byte does nothing.
Which register an address names where two share one is entry 16. -/
def Obligations.PsidLatchesAndControl : Prop :=
  ∀ (addr : Addr) (val : Byte) (c : Chip),
    let p := c.det.psid
    let p' := (psidLatch addr val c).det.psid
    (∀ r, psidRegAt addr = some r → psidMap r = addr)
    ∧ (psidRegAt addr = none ↔ ∀ r, psidMap r ≠ addr)
    ∧ ((regOf addr).toNat ≤ 0x18 → psidRegAt addr = none)
    ∧ (c.realFile = true ∨ psidRegAt addr = none → psidLatch addr val c = c)
    ∧ sameButDetector c (psidLatch addr val c)
    ∧ (c.realFile = false →
        (psidRegAt addr = some .startLo → p' = { p with prStart := p.prStart.extractLsb' 8 8 ++ val })
        ∧ (psidRegAt addr = some .startHi → p' = { p with prStart := val ++ p.prStart.extractLsb' 0 8 })
        ∧ (psidRegAt addr = some .endLo → p' = { p with prEnd := p.prEnd.extractLsb' 8 8 ++ val })
        ∧ (psidRegAt addr = some .endHi → p' = { p with prEnd := val ++ p.prEnd.extractLsb' 0 8 })
        ∧ (psidRegAt addr = some .repAddrLo → p' = { p with prRepAddr := p.prRepAddr.extractLsb' 8 8 ++ val })
        ∧ (psidRegAt addr = some .repAddrHi → p' = { p with prRepAddr := val ++ p.prRepAddr.extractLsb' 0 8 })
        ∧ (psidRegAt addr = some .periodLo → p' = { p with prPeriod := p.prPeriod.extractLsb' 8 8 ++ val })
        ∧ (psidRegAt addr = some .periodHi → p' = { p with prPeriod := val ++ p.prPeriod.extractLsb' 0 8 })
        ∧ (psidRegAt addr = some .order → p' = { p with prOrder := val })
        ∧ (psidRegAt addr = some .repCnt → p' = { p with prRepCnt := val })
        ∧ (psidRegAt addr = some .control →
            (val = 0xFD ∨ ((val = 0xFF ∨ val = 0xFE) ∧ p.prPeriod = 0) → p' = { p with pdActive := false })
            ∧ ((val = 0xFF ∨ val = 0xFE) ∧ p.prPeriod ≠ 0 →
                p' = { p with pdCur := p.prStart, pdPos := 0, pdCnt := p.prRepCnt, pdActive := true, pdStep := p'.pdStep }
                  ∧ (c.srate ≠ 0 → p'.pdStep.toNat =
                    min (2 ^ 32 - 1) (c.crate.toNat * 65536 / (p.prPeriod.toNat * c.srate.toNat))))
            ∧ (val ≠ 0xFD ∧ val ≠ 0xFF ∧ val ≠ 0xFE → p' = p)))

/-- One tick of the PSID player (43_digi_detector.md R261, R266, D29): it runs exactly where `REALFILE = 0`, the detector is
enabled and `PD_ACTIVE = 1`, and is silent where it does not run; the nibble of the byte read
at the current address, in the order `PR_ORDER` says, brought to -32768..32767, and the position advanced; at the end of
the segment stopped, or restarted at the repeat address with one repeat fewer, 0xFF repeats being endless. Each byte it
reads is a free value (entry 7). -/
def Obligations.PsidPlayerTick : Prop :=
  ∀ (reads : Nat) (c : Chip),
    let p := c.det.psid
    let nib := p.pdPos.toNat / 65536
    let a : Addr := p.pdCur + BitVec.ofNat 16 (nib / 2)
    let sound (n : Nat) (b : Byte) : Int :=
      (if (p.prOrder = 0 ∧ n % 2 = 0) ∨ (p.prOrder ≠ 0 ∧ n % 2 = 1) then (b.toNat % 16 : Int) else (b.toNat / 16 : Int))
        * 0x1111 - 0x8000
    let cnt : Byte := if p.pdCnt = 0xFF then 0xFF else p.pdCnt - 1
    let after (q : Psid) : Chip := { c with det := { c.det with psid := q } }
    let ended := p.prEnd.toNat ≤ a.toNat
    (psidRuns c = true ↔ c.realFile = false ∧ c.det.en = true ∧ p.pdActive = true)
    ∧ (psidRuns c = false → psidLevel reads c = 0 ∧ psidAdvance c = c ∧ psidReads reads c = reads)
    ∧ (psidRuns c = true → ¬ ended →
        psidLevel reads c = sound nib (Config.ramRead reads a) ∧ psidReads reads c = reads + 1
          ∧ psidAdvance c = after { p with pdPos := p.pdPos + p.pdStep.setWidth 48 })
    ∧ (psidRuns c = true → ended → p.pdCnt = 0 →
        psidLevel reads c = 0 ∧ psidReads reads c = reads ∧ psidAdvance c = after { p with pdActive := false })
    ∧ (psidRuns c = true → ended → p.pdCnt ≠ 0 → p.prRepAddr.toNat < p.prEnd.toNat →
        psidLevel reads c = sound 0 (Config.ramRead reads p.prRepAddr) ∧ psidReads reads c = reads + 1
          ∧ psidAdvance c = after { p with pdCnt := cnt, pdCur := p.prRepAddr, pdPos := p.pdStep.setWidth 48 })
    ∧ (psidRuns c = true → ended → p.pdCnt ≠ 0 → p.prEnd.toNat ≤ p.prRepAddr.toNat →
        psidLevel reads c = 0 ∧ psidReads reads c = reads
          ∧ psidAdvance c = after { p with pdCnt := cnt, pdCur := p.prRepAddr, pdPos := 0, pdActive := false })
    ∧ -32768 ≤ psidLevel reads c ∧ psidLevel reads c ≤ 32767

/-- The digi signal in a tick: nothing where there is none; the volume techniques straight into the unfiltered sum; a voice
technique where that voice would have gone, which is nowhere for a disconnected voice 3; and the voice it stands in for is
muted, so that no voice index is routed twice (43_digi_detector.md R260, 42_filter.md R191, R198, D12, D28). -/
def Obligations.DigiStandsInForItsVoice : Prop :=
  ∀ (c : Chip) (sm : Sums) (scale : Byte),
    let d := Int.tdiv (((c.det.sample.toNat : Int) * 0x101 - 0x8000) * Config.digiGain * scale.toNat) 255
    (c.det.en = false ∨ c.det.src = .unused → routeDigi c sm scale = sm)
    ∧ (c.det.en = true → c.det.src = .volume → routeDigi c sm scale = ⟨sm.f, sm.u + d⟩)
    ∧ (∀ v, c.det.en = true → c.det.src = .voice v →
        routeDigi c sm scale =
          (if c.filter.filt.get v then ⟨sm.f + d, sm.u⟩
           else if v = .v2 ∧ c.filter.v3off = true then sm
           else ⟨sm.f, sm.u + d⟩)
        ∧ (c.mutesFollowSource → c.mute.get v = true))

/-! ### The filter, the clip and the external filter -/

/-- `isSilencedVoice3` is true only for voice index 2, not routed and disconnected; false for the others whatever the bits;
and a routed voice 3 is heard through the filter even when disconnected (42_filter.md R192). -/
def Obligations.SilencedVoice3 : Prop :=
  ∀ (f : Filter) (v : Voice) (x : Int) (sm : Sums),
    (isSilencedVoice3 f v = true ↔ v = .v2 ∧ f.filt.v2 = false ∧ f.v3off = true)
    ∧ isSilencedVoice3 f .v0 = false ∧ isSilencedVoice3 f .v1 = false
    ∧ (f.filt.v2 = true → routeSignal f x sm .v2 = ⟨sm.f + x, sm.u⟩)

/-- With all three mode bits 0 the output is the sum `f + u` exactly, and `FH` does not change; `FH` is already zero then
(42_filter.md R194). -/
def Obligations.DisabledFilterIsTheSum : Prop :=
  ∀ (c : Chip) (sm : Sums), c.filter.lp = false → c.filter.bp = false → c.filter.hp = false →
    outputLevel c sm = sm.f + sm.u ∧ outputState c sm = c ∧ (c.historyFlushed → c.filter.fh = ⟨0, 0, 0⟩)

/-- The hard clip: 32767 above 32767, -32767 below -32767, the value itself between; -32768 is never produced
(44_render.md R300). -/
def Obligations.HardClip : Prop :=
  ∀ x : Int, (x > 32767 → clip x = 32767) ∧ (x < -32767 → clip x = -32767)
    ∧ (-32767 ≤ x → x ≤ 32767 → clip x = x) ∧ clip x ≠ -32768

/-- The external filter moves its output toward its input and never past it; a coefficient of 65536 passes the input
through and 0 freezes the output (44_render.md R298, D16). Off, it returns its input and keeps `EXT_Y`. -/
def Obligations.ExternalFilterNeverOvershoots : Prop :=
  ∀ (c : Chip) (m : Int),
    min c.filter.extY m ≤ extNext c m ∧ extNext c m ≤ max c.filter.extY m
    ∧ ((Config.extK c.srate).val = 65536 → extNext c m = m)
    ∧ ((Config.extK c.srate).val = 0 → extNext c m = c.filter.extY)
    ∧ extLevel true c m = extNext c m ∧ (extState true c m).filter.extY = extNext c m
    ∧ extLevel false c m = m ∧ extState false c m = c

/-! ### Rules of the whole machine -/

/-- Every command either is one the spec gives a meaning in this state, and completes, or is refused for one of the spec's
four reasons; there is no exception and no third case (60_exceptions.md R360 to R362, 20_memory.md R65,
70_reset_and_hazards.md R388, D31, D32). The model's own in what `legal` admits: buffers without an end are entry 8; the
reserved DIGI_QUERY refused at a chip that was never reset is entry 13; the ALL commands refused, and SETMODELS not, where
a chip in use was never reset is entry 17. -/
def Obligations.CommandsCompleteOrAreRefused : Prop :=
  ∀ (i : Instr) (s : State),
    (legal i s = true ∧ ∃ t, exec i s = .next t)
    ∨ (legal i s = false ∧ ∃ r, exec i s = .refused r
        ∧ (r = .unmappedAddress ∨ r = .uninitialisedChip ∨ r = .badBase ∨ r = .badRate))

/-- `N_USED` and `LUT` change in RESETALL and nowhere else, and a configuration register in CONFIG and nowhere else
(45_registry.md R331, R339, 10_state.md R54, 70_reset_and_hazards.md R386). -/
def Obligations.RegistryChangesOnlyInItsCommands : Prop :=
  ∀ (i : Instr) (s t : State), exec i s = .next t →
    (i ≠ .resetAll → t.registry.nUsed = s.registry.nUsed ∧ t.registry.lut = s.registry.lut)
    ∧ ((∀ n, i ≠ .configSrate n) → t.registry.cfgSrate = s.registry.cfgSrate)
    ∧ ((∀ n, i ≠ .configCrate n) → t.registry.cfgCrate = s.registry.cfgCrate)
    ∧ ((∀ f0 f1 f2 f3, i ≠ .configFlags f0 f1 f2 f3) →
        t.registry.cfgRealFile = s.registry.cfgRealFile ∧ t.registry.cfgCompat = s.registry.cfgCompat
          ∧ t.registry.cfgExtMulti = s.registry.cfgExtMulti ∧ t.registry.extEn = s.registry.extEn)
    ∧ ((∀ n, i ≠ .configCount n) → t.registry.cfgCount = s.registry.cfgCount)
    ∧ ((∀ slot base m ovr chan, i ≠ .configChip slot base m ovr chan) → t.registry.slots = s.registry.slots)

/-- Only the four render commands write a buffer, only READ, PEEK and DIGI_QUERY answer, one word each, and no command
touches the commands that wait (20_memory.md R61, 30_encoding.md R104, 00_scope.md R19, D1, D40; entries 1 and 2). -/
def Obligations.BuffersAndResponsesHaveTheirCommands : Prop :=
  ∀ (i : Instr) (s t : State), i.wellFormed = true → exec i s = .next t →
    t.port = s.port
    ∧ (opOf (encode i) ≠ 0x05 → opOf (encode i) ≠ 0x06 → opOf (encode i) ≠ 0x0D → opOf (encode i) ≠ 0x0E →
        sameMemory s t)
    ∧ ((opOf (encode i) = 0x02 ∨ opOf (encode i) = 0x03 ∨ opOf (encode i) = 0x0B) →
        ∃ w, t = { s with responses := s.responses ++ [w] })
    ∧ (opOf (encode i) ≠ 0x02 → opOf (encode i) ≠ 0x03 → opOf (encode i) ≠ 0x0B → t.responses = s.responses)

/-- The life of a chip: only RESET and RESETALL take a chip out of `UNINIT`, nothing takes it back there, and WRITE,
CLOCK and the render commands alone make it `ACTIVE` (10_state.md R21, 45_registry.md R346, D31). -/
def Obligations.ChipLifeCycle : Prop :=
  ∀ (i : Instr) (s t : State) (j : Fin 10), exec i s = .next t →
    ((s.chip j).life ≠ .uninit → (t.chip j).life ≠ .uninit)
    ∧ ((s.chip j).life = .uninit → (t.chip j).life ≠ .uninit →
        (i = .resetAll ∨ ∃ c, i = .reset c) ∧ (t.chip j).life = .reset)
    ∧ ((s.chip j).life = .reset → (t.chip j).life = .active →
        opOf (encode i) = 0x01 ∨ opOf (encode i) = 0x04 ∨ opOf (encode i) = 0x05 ∨ opOf (encode i) = 0x06
          ∨ opOf (encode i) = 0x0C ∨ opOf (encode i) = 0x0D ∨ opOf (encode i) = 0x0E)

/-- Visualisation only, never audio: two states that differ at most in the visualisation histories and in what the trace
buffers hold stay so under every command; so no trace and no visualisation history ever reaches the PCM buffer, a response
or any other state (10_state.md R40, 20_memory.md R73, 42_filter.md R196, 44_render.md R303, D19, D37). -/
def Obligations.TracesNeverReachTheAudio : Prop :=
  ∀ (i : Instr) (s s' t : State), s.audible = s'.audible → exec i s = .next t →
    ∃ t', exec i s' = .next t' ∧ t.audible = t'.audible

/-! ### Properties that every step keeps -/

/-- Every step keeps the five memories, the PCM buffer and the four trace buffers (20_memory.md R72, R73), in canonical
form (entry 8). -/
def Obligations.StepKeepsMemoriesCanonical : Prop :=
  ∀ s t : State, s.memoriesCanonical = true → step s = .next t → t.memoriesCanonical = true

/-- No step puts -32768 into a word of a buffer that holds none: all that leaves the block is clipped
(44_render.md R300, 20_memory.md R74, R75, D17, D19). -/
def Obligations.StepKeepsSamplesInRange : Prop :=
  ∀ s t : State, s.memoriesCanonical = true → s.samplesInRange → step s = .next t → t.samplesInRange

/-- Every step keeps the chips in use initialised, the lookup table within the chips in use, slot 0 and chip 0 at 0xD400;
so a bus command that reaches a chip reaches an initialised one (10_state.md R23, R52, R53, R54,
70_reset_and_hazards.md R388, D30, D31). -/
def Obligations.StepKeepsBusOnChipsInUse : Prop :=
  ∀ s t : State, s.busMapsChipsInUse → s.chip0Fixed → step s = .next t →
    t.busMapsChipsInUse ∧ t.chip0Fixed ∧ ∀ a i, busChip t a = some i → (t.chip i).life ≠ .uninit

/-- Every step keeps each chip's mutes those of its one active technique, each remembered by the detector: a voice is
muted exactly while a technique that silences it is held (10_state.md R48, 43_digi_detector.md R224, R227, R253, D27). -/
def Obligations.StepKeepsMutesOfTheTechnique : Prop :=
  ∀ s t : State, (∀ i, (s.chip i).mutesFollowSource) → step s = .next t → ∀ i, (t.chip i).mutesFollowSource

/-- Every step keeps the histories of a filter with every mode off at zero (42_filter.md R194, 40_register_access.md R148,
D11). -/
def Obligations.StepKeepsDisabledFilterFlushed : Prop :=
  ∀ s t : State, (∀ i, (s.chip i).historyFlushed) → step s = .next t → ∀ i, (t.chip i).historyFlushed

/-- Every step keeps the two constants of an initialised chip those of its model, and its two rates above 0
(10_state.md R26, 45_registry.md R338, R345, 43_digi_detector.md R264, D30, D31). -/
def Obligations.StepKeepsModelConstants : Prop :=
  ∀ s t : State, (∀ i, (s.chip i).constantsDerived) → step s = .next t → ∀ i, (t.chip i).constantsDerived

/-- Every step keeps a disabled detector without a technique, a half-seen pattern or a running player, and the player of a
real file as reset left it (43_digi_detector.md R261, R273, D21, D29). -/
def Obligations.StepKeepsDisabledDetectorInert : Prop :=
  ∀ s t : State, (∀ i, (s.chip i).disabledInert ∧ (s.chip i).realFilePlayerStill) → step s = .next t →
    ∀ i, (t.chip i).disabledInert ∧ (t.chip i).realFilePlayerStill

/-- Every step keeps the FM and PWM-test automata of one voice from being both past their first phase
(43_digi_detector.md R242). -/
def Obligations.StepKeepsAutomataExclusive : Prop :=
  ∀ s t : State, (∀ i, (s.chip i).automataExclusive) → step s = .next t → ∀ i, (t.chip i).automataExclusive

/-- At power-on every property that a step keeps holds (10_state.md R60; that it holds of the chips' unspecified fields is
the model's choice of values, entry 9, and of the buffers entry 8). -/
def Obligations.PowerOnHasEveryProperty : Prop :=
  State.reset.memoriesCanonical = true ∧ State.reset.samplesInRange ∧ State.reset.busMapsChipsInUse
    ∧ State.reset.chip0Fixed
    ∧ ∀ i, (State.reset.chip i).mutesFollowSource ∧ (State.reset.chip i).historyFlushed
      ∧ (State.reset.chip i).constantsDerived ∧ (State.reset.chip i).disabledInert
      ∧ (State.reset.chip i).realFilePlayerStill ∧ (State.reset.chip i).automataExclusive

/-- Power-on: every chip `UNINIT`, the configuration registers at their defaults, no chip in use, nothing on the bus, so
that every WRITE, READ and PEEK, whatever its address, is refused (10_state.md R60, 70_reset_and_hazards.md R385,
20_memory.md R65, D31). -/
def Obligations.PowerOn : Prop :=
  (∀ i, (State.reset.chip i).life = .uninit)
    ∧ State.reset.registry.cfgSrate = 0 ∧ State.reset.registry.cfgCrate = 0
    ∧ State.reset.registry.cfgRealFile = false ∧ State.reset.registry.cfgCompat = false
    ∧ State.reset.registry.cfgExtMulti = false ∧ State.reset.registry.extEn = true
    ∧ State.reset.registry.cfgCount = 1 ∧ State.reset.registry.nUsed = 0
    ∧ (∀ i : Fin 10, State.reset.registry.slots[i] = ⟨if i = 0 then 0xD400 else 0, false, 0, 0⟩)
    ∧ (∀ a, busChip State.reset a = none)
    ∧ ∀ w : Word, (opOf w = 0x01 ∨ opOf w = 0x02 ∨ opOf w = 0x03) →
        exec (decode w) State.reset = .refused .unmappedAddress

/-! ### The render pipeline -/

/-- The sample of one tick, step by step, for every filter, digi and player: the scaled levels of the voices that are not
muted, each in the filtered or the unfiltered sum or, a disconnected voice 3, in neither; the digi level into the sums
before the output stage; with a mode on, the transfer function of the filtered sum plus the unfiltered sum, its history the
new `FH`; with none, the plain sum; master volume; the external filter where it is on, its output the new `EXT_Y`; and the
PSID level, scaled, after it and before the clip. The trace flag has no part in it (44_render.md R291 to R295, R297 to R300,
42_filter.md R191 to R194, 43_digi_detector.md R260, R266, D12, D13, D14, D15, D16, D28, D29). -/
def Obligations.SampleFollowsThePipeline : Prop :=
  ∀ (c : Chip) (extEn traceEn : Bool) (scale : Byte) (reads : Nat),
    let flt := c.filter
    let share (v : Voice) : Int :=
      if c.mute.get v = true then 0
      else
        Int.tdiv ((((Config.envOut (c.env.get v)).toNat : Int) * ((Config.waveOut c.osc v).toNat - c.wfz) + c.daco)
          * scale.toNat) 255
    let toFiltered (v : Voice) (x : Int) : Int := if flt.filt.get v = true then x else 0
    let toUnfiltered (v : Voice) (x : Int) : Int :=
      if flt.filt.get v = true ∨ (v = .v2 ∧ flt.v3off = true) then 0 else x
    let digi : Int := Int.tdiv (((c.det.sample.toNat : Int) * 0x101 - 0x8000) * Config.digiGain * scale.toNat) 255
    let digiSums : Int × Int :=
      if c.det.en = false then (0, 0)
      else match c.det.src with
        | .unused => (0, 0)
        | .volume => (0, digi)
        | .voice v => (toFiltered v digi, toUnfiltered v digi)
    let f := toFiltered .v0 (share .v0) + toFiltered .v1 (share .v1) + toFiltered .v2 (share .v2) + digiSums.1
    let u := toUnfiltered .v0 (share .v0) + toUnfiltered .v1 (share .v1) + toUnfiltered .v2 (share .v2) + digiSums.2
    let modesOn := flt.lp = true ∨ flt.bp = true ∨ flt.hp = true
    let xfer := Config.filterXfer ⟨c.model, flt.cutoff, flt.res, flt.lp, flt.bp, flt.hp, c.srate⟩ flt.fh f
    let o := if modesOn then xfer.1 + u else f + u
    let m := Int.tdiv (o * c.vol.toNat) outDiv
    let x := if extEn then flt.extY + Int.tdiv ((m - flt.extY) * (Config.extK c.srate).val) 65536 else m
    let q := synthTick extEn traceEn scale reads c
    q.y = clip (x + Int.tdiv (psidLevel reads c * scale.toNat) 255)
    ∧ q.chip.filter.fh = (if modesOn then xfer.2 else flt.fh)
    ∧ q.chip.filter.extY = (if extEn then x else flt.extY)
    ∧ q.chip.det = (psidAdvance c).det ∧ q.reads = psidReads reads c
end

