-- ==== Sys2Proof/Laws/State.lean ====
section
/-! SUPPORT. What each named update of the state leaves in each field: one lemma per field per update, so that no later
proof unfolds a record update. -/

namespace Sys2Proof

/-! ### The file of the three voices -/

@[simp] theorem PerVoice.get_set_same {α : Type} (p : PerVoice α) (v : Voice) (x : α) : (p.set v x).get v = x := by
  cases v <;> rfl

@[simp] theorem PerVoice.get_set_ne {α : Type} (p : PerVoice α) (u v : Voice) (x : α) (h : u ≠ v) :
    (p.set v x).get u = p.get u := by
  cases u <;> cases v <;> first | rfl | exact absurd rfl h

@[simp] theorem PerVoice.get_map {α β : Type} (f : α → β) (p : PerVoice α) (v : Voice) :
    (p.map f).get v = f (p.get v) := by
  cases v <;> rfl

@[simp] theorem PerVoice.set_get {α : Type} (p : PerVoice α) (v : Voice) : p.set v (p.get v) = p := by
  cases v <;> rfl

theorem PerVoice.ext_get {α : Type} (p q : PerVoice α) (h : ∀ v, p.get v = q.get v) : p = q := by
  obtain ⟨a, b, c⟩ := p
  have h0 := h .v0
  have h1 := h .v1
  have h2 := h .v2
  simp only [PerVoice.get] at h0 h1 h2
  simp [h0, h1, h2]

namespace Machine

@[simp] theorem get_perVoice {α : Type} (x : α) (v : Voice) : (perVoice x).get v = x := by cases v <;> rfl

/-! ### The state -/

@[simp] theorem chip_setChip_same (s : State) (i : Fin 10) (c : Chip) : (s.setChip i c).chip i = c := by
  simp [State.chip, State.setChip]

@[simp] theorem chip_setChip_ne (s : State) (i j : Fin 10) (c : Chip) (h : j ≠ i) : (s.setChip i c).chip j = s.chip j := by
  have hij : i.val ≠ j.val := fun e => h (Fin.ext e.symm)
  simp [State.chip, State.setChip, hij]

theorem chip_setChip (s : State) (i j : Fin 10) (c : Chip) :
    (s.setChip i c).chip j = if j = i then c else s.chip j := by
  by_cases h : j = i
  · subst h; simp
  · simp [h]

@[simp] theorem setChip_chip (s : State) (i : Fin 10) : s.setChip i (s.chip i) = s := by
  simp [State.setChip, State.chip]

@[simp] theorem setChip_registry (s : State) (i : Fin 10) (c : Chip) : (s.setChip i c).registry = s.registry := rfl
@[simp] theorem setChip_pcm (s : State) (i : Fin 10) (c : Chip) : (s.setChip i c).pcm = s.pcm := rfl
@[simp] theorem setChip_traces (s : State) (i : Fin 10) (c : Chip) : (s.setChip i c).traces = s.traces := rfl
@[simp] theorem setChip_port (s : State) (i : Fin 10) (c : Chip) : (s.setChip i c).port = s.port := rfl
@[simp] theorem setChip_responses (s : State) (i : Fin 10) (c : Chip) : (s.setChip i c).responses = s.responses := rfl
@[simp] theorem setChip_ramReads (s : State) (i : Fin 10) (c : Chip) : (s.setChip i c).ramReads = s.ramReads := rfl

/-! ### The registers of a chip -/

@[simp] theorem setRegs_life (v : Voice) (f : VoiceRegs → VoiceRegs) (c : Chip) : (setRegs v f c).life = c.life := rfl
@[simp] theorem setRegs_regs (v : Voice) (f : VoiceRegs → VoiceRegs) (c : Chip) :
    (setRegs v f c).regs = c.regs.set v (f (c.regs.get v)) := rfl
@[simp] theorem setRegs_bus (v : Voice) (f : VoiceRegs → VoiceRegs) (c : Chip) : (setRegs v f c).bus = c.bus := rfl
@[simp] theorem setRegs_vol (v : Voice) (f : VoiceRegs → VoiceRegs) (c : Chip) : (setRegs v f c).vol = c.vol := rfl
@[simp] theorem setRegs_mute (v : Voice) (f : VoiceRegs → VoiceRegs) (c : Chip) : (setRegs v f c).mute = c.mute := rfl
@[simp] theorem setRegs_cyc (v : Voice) (f : VoiceRegs → VoiceRegs) (c : Chip) : (setRegs v f c).cyc = c.cyc := rfl
@[simp] theorem setRegs_osc (v : Voice) (f : VoiceRegs → VoiceRegs) (c : Chip) : (setRegs v f c).osc = c.osc := rfl
@[simp] theorem setRegs_env (v : Voice) (f : VoiceRegs → VoiceRegs) (c : Chip) : (setRegs v f c).env = c.env := rfl
@[simp] theorem setRegs_filter (v : Voice) (f : VoiceRegs → VoiceRegs) (c : Chip) :
    (setRegs v f c).filter = c.filter := rfl
@[simp] theorem setRegs_det (v : Voice) (f : VoiceRegs → VoiceRegs) (c : Chip) : (setRegs v f c).det = c.det := rfl

@[simp] theorem oscPoke_life (v : Voice) (r : OscReg) (val : Byte) (c : Chip) :
    (oscPoke v r val c).life = c.life := rfl
@[simp] theorem oscPoke_regs (v : Voice) (r : OscReg) (val : Byte) (c : Chip) :
    (oscPoke v r val c).regs = c.regs := rfl
@[simp] theorem oscPoke_bus (v : Voice) (r : OscReg) (val : Byte) (c : Chip) : (oscPoke v r val c).bus = c.bus := rfl
@[simp] theorem oscPoke_vol (v : Voice) (r : OscReg) (val : Byte) (c : Chip) : (oscPoke v r val c).vol = c.vol := rfl
@[simp] theorem oscPoke_mute (v : Voice) (r : OscReg) (val : Byte) (c : Chip) :
    (oscPoke v r val c).mute = c.mute := rfl
@[simp] theorem oscPoke_cyc (v : Voice) (r : OscReg) (val : Byte) (c : Chip) : (oscPoke v r val c).cyc = c.cyc := rfl
@[simp] theorem oscPoke_osc (v : Voice) (r : OscReg) (val : Byte) (c : Chip) :
    (oscPoke v r val c).osc = c.osc.set v (Config.oscWrite (c.osc.get v) r val) := rfl
@[simp] theorem oscPoke_env (v : Voice) (r : OscReg) (val : Byte) (c : Chip) : (oscPoke v r val c).env = c.env := rfl
@[simp] theorem oscPoke_filter (v : Voice) (r : OscReg) (val : Byte) (c : Chip) :
    (oscPoke v r val c).filter = c.filter := rfl
@[simp] theorem oscPoke_det (v : Voice) (r : OscReg) (val : Byte) (c : Chip) : (oscPoke v r val c).det = c.det := rfl

@[simp] theorem envPoke_life (v : Voice) (r : EnvReg) (val : Byte) (c : Chip) :
    (envPoke v r val c).life = c.life := rfl
@[simp] theorem envPoke_regs (v : Voice) (r : EnvReg) (val : Byte) (c : Chip) :
    (envPoke v r val c).regs = c.regs := rfl
@[simp] theorem envPoke_bus (v : Voice) (r : EnvReg) (val : Byte) (c : Chip) : (envPoke v r val c).bus = c.bus := rfl
@[simp] theorem envPoke_vol (v : Voice) (r : EnvReg) (val : Byte) (c : Chip) : (envPoke v r val c).vol = c.vol := rfl
@[simp] theorem envPoke_mute (v : Voice) (r : EnvReg) (val : Byte) (c : Chip) :
    (envPoke v r val c).mute = c.mute := rfl
@[simp] theorem envPoke_cyc (v : Voice) (r : EnvReg) (val : Byte) (c : Chip) : (envPoke v r val c).cyc = c.cyc := rfl
@[simp] theorem envPoke_osc (v : Voice) (r : EnvReg) (val : Byte) (c : Chip) : (envPoke v r val c).osc = c.osc := rfl
@[simp] theorem envPoke_env (v : Voice) (r : EnvReg) (val : Byte) (c : Chip) :
    (envPoke v r val c).env = c.env.set v (Config.envWrite (c.env.get v) r val) := rfl
@[simp] theorem envPoke_filter (v : Voice) (r : EnvReg) (val : Byte) (c : Chip) :
    (envPoke v r val c).filter = c.filter := rfl
@[simp] theorem envPoke_det (v : Voice) (r : EnvReg) (val : Byte) (c : Chip) : (envPoke v r val c).det = c.det := rfl

@[simp] theorem filterPoke_life (g : Filter → Filter) (c : Chip) : (filterPoke g c).life = c.life := rfl
@[simp] theorem filterPoke_regs (g : Filter → Filter) (c : Chip) : (filterPoke g c).regs = c.regs := rfl
@[simp] theorem filterPoke_bus (g : Filter → Filter) (c : Chip) : (filterPoke g c).bus = c.bus := rfl
@[simp] theorem filterPoke_vol (g : Filter → Filter) (c : Chip) : (filterPoke g c).vol = c.vol := rfl
@[simp] theorem filterPoke_mute (g : Filter → Filter) (c : Chip) : (filterPoke g c).mute = c.mute := rfl
@[simp] theorem filterPoke_cyc (g : Filter → Filter) (c : Chip) : (filterPoke g c).cyc = c.cyc := rfl
@[simp] theorem filterPoke_osc (g : Filter → Filter) (c : Chip) : (filterPoke g c).osc = c.osc := rfl
@[simp] theorem filterPoke_env (g : Filter → Filter) (c : Chip) : (filterPoke g c).env = c.env := rfl
@[simp] theorem filterPoke_filter (g : Filter → Filter) (c : Chip) : (filterPoke g c).filter = g c.filter := rfl
@[simp] theorem filterPoke_det (g : Filter → Filter) (c : Chip) : (filterPoke g c).det = c.det := rfl

/-! ### The detector -/

@[simp] theorem setFm_det_en (v : Voice) (f : FmRec) (c : Chip) : (setFm v f c).det.en = c.det.en := rfl
@[simp] theorem setFm_det_type (v : Voice) (f : FmRec) (c : Chip) : (setFm v f c).det.type = c.det.type := rfl
@[simp] theorem setFm_det_src (v : Voice) (f : FmRec) (c : Chip) : (setFm v f c).det.src = c.det.src := rfl
@[simp] theorem setFm_det_sample (v : Voice) (f : FmRec) (c : Chip) : (setFm v f c).det.sample = c.det.sample := rfl
@[simp] theorem setFm_det_count (v : Voice) (f : FmRec) (c : Chip) : (setFm v f c).det.count = c.det.count := rfl
@[simp] theorem setFm_det_muted (v : Voice) (f : FmRec) (c : Chip) : (setFm v f c).det.muted = c.det.muted := rfl
@[simp] theorem setFm_det_fm (v : Voice) (f : FmRec) (c : Chip) : (setFm v f c).det.fm = c.det.fm.set v f := rfl
@[simp] theorem setFm_det_pw (v : Voice) (f : FmRec) (c : Chip) : (setFm v f c).det.pw = c.det.pw := rfl
@[simp] theorem setFm_det_sw (v : Voice) (f : FmRec) (c : Chip) : (setFm v f c).det.sw = c.det.sw := rfl
@[simp] theorem setFm_det_psid (v : Voice) (f : FmRec) (c : Chip) : (setFm v f c).det.psid = c.det.psid := rfl
@[simp] theorem setFm_mute (v : Voice) (f : FmRec) (c : Chip) : (setFm v f c).mute = c.mute := rfl

@[simp] theorem setPw_det_en (v : Voice) (p : PwRec) (c : Chip) : (setPw v p c).det.en = c.det.en := rfl
@[simp] theorem setPw_det_type (v : Voice) (p : PwRec) (c : Chip) : (setPw v p c).det.type = c.det.type := rfl
@[simp] theorem setPw_det_src (v : Voice) (p : PwRec) (c : Chip) : (setPw v p c).det.src = c.det.src := rfl
@[simp] theorem setPw_det_sample (v : Voice) (p : PwRec) (c : Chip) : (setPw v p c).det.sample = c.det.sample := rfl
@[simp] theorem setPw_det_count (v : Voice) (p : PwRec) (c : Chip) : (setPw v p c).det.count = c.det.count := rfl
@[simp] theorem setPw_det_muted (v : Voice) (p : PwRec) (c : Chip) : (setPw v p c).det.muted = c.det.muted := rfl
@[simp] theorem setPw_det_fm (v : Voice) (p : PwRec) (c : Chip) : (setPw v p c).det.fm = c.det.fm := rfl
@[simp] theorem setPw_det_pw (v : Voice) (p : PwRec) (c : Chip) : (setPw v p c).det.pw = c.det.pw.set v p := rfl
@[simp] theorem setPw_det_sw (v : Voice) (p : PwRec) (c : Chip) : (setPw v p c).det.sw = c.det.sw := rfl
@[simp] theorem setPw_det_psid (v : Voice) (p : PwRec) (c : Chip) : (setPw v p c).det.psid = c.det.psid := rfl
@[simp] theorem setPw_mute (v : Voice) (p : PwRec) (c : Chip) : (setPw v p c).mute = c.mute := rfl

@[simp] theorem setSw_det_en (v : Voice) (k : Option SwallowScheme) (c : Chip) :
    (setSw v k c).det.en = c.det.en := rfl
@[simp] theorem setSw_det_type (v : Voice) (k : Option SwallowScheme) (c : Chip) :
    (setSw v k c).det.type = c.det.type := rfl
@[simp] theorem setSw_det_src (v : Voice) (k : Option SwallowScheme) (c : Chip) :
    (setSw v k c).det.src = c.det.src := rfl
@[simp] theorem setSw_det_sample (v : Voice) (k : Option SwallowScheme) (c : Chip) :
    (setSw v k c).det.sample = c.det.sample := rfl
@[simp] theorem setSw_det_count (v : Voice) (k : Option SwallowScheme) (c : Chip) :
    (setSw v k c).det.count = c.det.count := rfl
@[simp] theorem setSw_det_muted (v : Voice) (k : Option SwallowScheme) (c : Chip) :
    (setSw v k c).det.muted = c.det.muted := rfl
@[simp] theorem setSw_det_fm (v : Voice) (k : Option SwallowScheme) (c : Chip) :
    (setSw v k c).det.fm = c.det.fm := rfl
@[simp] theorem setSw_det_pw (v : Voice) (k : Option SwallowScheme) (c : Chip) :
    (setSw v k c).det.pw = c.det.pw := rfl
@[simp] theorem setSw_det_sw (v : Voice) (k : Option SwallowScheme) (c : Chip) :
    (setSw v k c).det.sw = c.det.sw.set v k := rfl
@[simp] theorem setSw_det_psid (v : Voice) (k : Option SwallowScheme) (c : Chip) :
    (setSw v k c).det.psid = c.det.psid := rfl
@[simp] theorem setSw_mute (v : Voice) (k : Option SwallowScheme) (c : Chip) : (setSw v k c).mute = c.mute := rfl

@[simp] theorem recordSample_det_en (x : Byte) (c : Chip) : (recordSample x c).det.en = c.det.en := rfl
@[simp] theorem recordSample_det_type (x : Byte) (c : Chip) : (recordSample x c).det.type = c.det.type := rfl
@[simp] theorem recordSample_det_src (x : Byte) (c : Chip) : (recordSample x c).det.src = c.det.src := rfl
@[simp] theorem recordSample_det_sample (x : Byte) (c : Chip) : (recordSample x c).det.sample = x := rfl
@[simp] theorem recordSample_det_count (x : Byte) (c : Chip) :
    (recordSample x c).det.count = saturatingSucc c.det.count := rfl
@[simp] theorem recordSample_det_muted (x : Byte) (c : Chip) : (recordSample x c).det.muted = c.det.muted := rfl
@[simp] theorem recordSample_det_fm (x : Byte) (c : Chip) : (recordSample x c).det.fm = c.det.fm := rfl
@[simp] theorem recordSample_det_pw (x : Byte) (c : Chip) : (recordSample x c).det.pw = c.det.pw := rfl
@[simp] theorem recordSample_det_sw (x : Byte) (c : Chip) : (recordSample x c).det.sw = c.det.sw := rfl
@[simp] theorem recordSample_det_psid (x : Byte) (c : Chip) : (recordSample x c).det.psid = c.det.psid := rfl
@[simp] theorem recordSample_mute (x : Byte) (c : Chip) : (recordSample x c).mute = c.mute := rfl

@[simp] theorem muteVoice_det_en (v : Voice) (c : Chip) : (muteVoice v c).det.en = c.det.en := rfl
@[simp] theorem muteVoice_det_type (v : Voice) (c : Chip) : (muteVoice v c).det.type = c.det.type := rfl
@[simp] theorem muteVoice_det_src (v : Voice) (c : Chip) : (muteVoice v c).det.src = c.det.src := rfl
@[simp] theorem muteVoice_det_sample (v : Voice) (c : Chip) : (muteVoice v c).det.sample = c.det.sample := rfl
@[simp] theorem muteVoice_det_count (v : Voice) (c : Chip) : (muteVoice v c).det.count = c.det.count := rfl
@[simp] theorem muteVoice_det_muted (v : Voice) (c : Chip) : (muteVoice v c).det.muted = c.det.muted.set v true := rfl
@[simp] theorem muteVoice_det_fm (v : Voice) (c : Chip) : (muteVoice v c).det.fm = c.det.fm := rfl
@[simp] theorem muteVoice_det_pw (v : Voice) (c : Chip) : (muteVoice v c).det.pw = c.det.pw := rfl
@[simp] theorem muteVoice_det_sw (v : Voice) (c : Chip) : (muteVoice v c).det.sw = c.det.sw := rfl
@[simp] theorem muteVoice_det_psid (v : Voice) (c : Chip) : (muteVoice v c).det.psid = c.det.psid := rfl
@[simp] theorem muteVoice_mute (v : Voice) (c : Chip) : (muteVoice v c).mute = c.mute.set v true := rfl

@[simp] theorem muteAllVoices_det_en (c : Chip) : (muteAllVoices c).det.en = c.det.en := rfl
@[simp] theorem muteAllVoices_det_type (c : Chip) : (muteAllVoices c).det.type = c.det.type := rfl
@[simp] theorem muteAllVoices_det_src (c : Chip) : (muteAllVoices c).det.src = c.det.src := rfl
@[simp] theorem muteAllVoices_det_sample (c : Chip) : (muteAllVoices c).det.sample = c.det.sample := rfl
@[simp] theorem muteAllVoices_det_count (c : Chip) : (muteAllVoices c).det.count = c.det.count := rfl
@[simp] theorem muteAllVoices_det_muted (c : Chip) : (muteAllVoices c).det.muted = perVoice true := rfl
@[simp] theorem muteAllVoices_det_fm (c : Chip) : (muteAllVoices c).det.fm = c.det.fm := rfl
@[simp] theorem muteAllVoices_det_pw (c : Chip) : (muteAllVoices c).det.pw = c.det.pw := rfl
@[simp] theorem muteAllVoices_det_sw (c : Chip) : (muteAllVoices c).det.sw = c.det.sw := rfl
@[simp] theorem muteAllVoices_det_psid (c : Chip) : (muteAllVoices c).det.psid = c.det.psid := rfl
@[simp] theorem muteAllVoices_mute (c : Chip) : (muteAllVoices c).mute = perVoice true := rfl

@[simp] theorem restoreMutes_det_en (c : Chip) : (restoreMutes c).det.en = c.det.en := rfl
@[simp] theorem restoreMutes_det_type (c : Chip) : (restoreMutes c).det.type = c.det.type := rfl
@[simp] theorem restoreMutes_det_src (c : Chip) : (restoreMutes c).det.src = c.det.src := rfl
@[simp] theorem restoreMutes_det_sample (c : Chip) : (restoreMutes c).det.sample = c.det.sample := rfl
@[simp] theorem restoreMutes_det_count (c : Chip) : (restoreMutes c).det.count = c.det.count := rfl
@[simp] theorem restoreMutes_det_muted (c : Chip) : (restoreMutes c).det.muted = perVoice false := rfl
@[simp] theorem restoreMutes_det_fm (c : Chip) : (restoreMutes c).det.fm = c.det.fm := rfl
@[simp] theorem restoreMutes_det_pw (c : Chip) : (restoreMutes c).det.pw = c.det.pw := rfl
@[simp] theorem restoreMutes_det_sw (c : Chip) : (restoreMutes c).det.sw = c.det.sw := rfl
@[simp] theorem restoreMutes_det_psid (c : Chip) : (restoreMutes c).det.psid = c.det.psid := rfl

/-- What restoring does to one mute flag (43_digi_detector.md R224). -/
theorem restoreMutes_mute_get (c : Chip) (v : Voice) :
    (restoreMutes c).mute.get v = if c.det.muted.get v then false else c.mute.get v := by
  cases v <;> rfl

/-- Where the detector's flags and the mutes agree, restoring leaves no voice muted. -/
theorem restoreMutes_mute_of_eq (c : Chip) (h : c.det.muted = c.mute) : (restoreMutes c).mute = perVoice false := by
  apply PerVoice.ext_get
  intro v
  rw [restoreMutes_mute_get, h]
  cases hv : c.mute.get v <;> simp

end Machine

end Sys2Proof
end

