-- ==== Sys2Proof/Laws/Detector.lean ====
section
/-! SUPPORT. What the detector can do to a chip: nothing outside its own fields and the mutes, one lemma per operation;
and what each algorithm leaves alone inside the detector. -/

namespace Sys2Proof.Machine

/-! ### Nothing but the detector and the mutes (43_digi_detector.md R215) -/

theorem sameButDetector_refl (c : Chip) : sameButDetector c c := rfl

theorem sameButDetector_trans {a b c : Chip} (h : sameButDetector a b) (k : sameButDetector b c) :
    sameButDetector a c := by
  unfold sameButDetector at *
  rw [h] at k
  exact k

theorem restoreMutes_frame (c : Chip) : sameButDetector c (restoreMutes c) := rfl
theorem muteVoice_frame (v : Voice) (c : Chip) : sameButDetector c (muteVoice v c) := rfl
theorem muteAllVoices_frame (c : Chip) : sameButDetector c (muteAllVoices c) := rfl
theorem recordSample_frame (x : Byte) (c : Chip) : sameButDetector c (recordSample x c) := rfl
theorem setFm_frame (v : Voice) (f : FmRec) (c : Chip) : sameButDetector c (setFm v f c) := rfl
theorem setPw_frame (v : Voice) (p : PwRec) (c : Chip) : sameButDetector c (setPw v p c) := rfl
theorem setSw_frame (v : Voice) (k : Option SwallowScheme) (c : Chip) : sameButDetector c (setSw v k c) := rfl

theorem setSource_frame (type : DigiType) (src : DigiSrc) (c : Chip) : sameButDetector c (setSource type src c) := by
  unfold setSource
  split <;> rfl

theorem capture_frame (type : DigiType) (v : Voice) (x : Byte) (c : Chip) : sameButDetector c (capture type v x c) :=
  sameButDetector_trans (setSource_frame type (.voice v) c)
    (sameButDetector_trans (recordSample_frame x _) (muteVoice_frame v _))

theorem fmOnWave_frame (v : Voice) (val : Byte) (c : Chip) : sameButDetector c (fmOnWave v val c).1 := by
  unfold fmOnWave
  dsimp only
  split_ifs <;> first
    | exact setFm_frame _ _ _
    | exact sameButDetector_trans (setFm_frame _ _ _) (capture_frame _ _ _ _)

theorem fmOnFreqHi_frame (v : Voice) (val : Byte) (c : Chip) : sameButDetector c (fmOnFreqHi v val c).1 := by
  unfold fmOnFreqHi
  dsimp only
  split <;> try split
  all_goals first
    | exact sameButDetector_refl _
    | exact setFm_frame _ _ _
    | exact sameButDetector_trans (setFm_frame _ _ _) (capture_frame _ _ _ _)

theorem fmDetect_frame (v : Voice) (r : Nat) (val : Byte) (c : Chip) : sameButDetector c (fmDetect v r val c).1 := by
  unfold fmDetect
  split
  · exact fmOnFreqHi_frame v val c
  · exact fmOnWave_frame v val c
  · exact sameButDetector_refl c

theorem pwmOnWave_frame (v : Voice) (val : Byte) (c : Chip) : sameButDetector c (pwmOnWave v val c).1 := by
  unfold pwmOnWave
  dsimp only
  split_ifs <;> first
    | exact setPw_frame _ _ _
    | exact sameButDetector_trans (setPw_frame _ _ _) (capture_frame _ _ _ _)

theorem pwmOnPwLo_frame (v : Voice) (val : Byte) (c : Chip) : sameButDetector c (pwmOnPwLo v val c).1 := by
  unfold pwmOnPwLo
  dsimp only
  split_ifs <;> exact setPw_frame _ _ _

theorem pwmDetect_frame (v : Voice) (r : Nat) (val : Byte) (c : Chip) : sameButDetector c (pwmDetect v r val c).1 := by
  unfold pwmDetect
  split
  · exact pwmOnPwLo_frame v val c
  · exact pwmOnWave_frame v val c
  · exact sameButDetector_refl c

theorem swallowOnWave_frame (v : Voice) (val : Byte) (c : Chip) : sameButDetector c (swallowOnWave v val c).1 := by
  unfold swallowOnWave
  split_ifs
  · exact setSw_frame _ _ _
  · exact sameButDetector_refl c

theorem swallowOnPulse_frame (v : Voice) (r : PulseReg) (val : Byte) (c : Chip) :
    sameButDetector c (swallowOnPulse v r val c).1 := by
  unfold swallowOnPulse
  split
  · exact sameButDetector_refl c
  · split_ifs
    · split
      · exact sameButDetector_refl c
      · exact capture_frame _ _ _ _
    · exact setSw_frame _ _ _

theorem swallowDetect_frame (v : Voice) (r : Nat) (val : Byte) (c : Chip) :
    sameButDetector c (swallowDetect v r val c).1 := by
  unfold swallowDetect
  split
  · exact swallowOnPulse_frame v .lo val c
  · exact swallowOnPulse_frame v .hi val c
  · exact swallowOnWave_frame v val c
  · exact sameButDetector_refl c

theorem d418Detect_frame (val : Byte) (c : Chip) : sameButDetector c (d418Detect val c).1 := by
  unfold d418Detect
  split_ifs
  · exact sameButDetector_trans (setSource_frame _ _ _)
      (sameButDetector_trans (muteAllVoices_frame _) (recordSample_frame _ _))
  · exact sameButDetector_refl c
  · exact sameButDetector_trans (setSource_frame _ _ _) (recordSample_frame _ _)

theorem psidLatch_frame (addr : Addr) (val : Byte) (c : Chip) : sameButDetector c (psidLatch addr val c) := rfl

theorem detectVoice_frame (v : Voice) (r : Nat) (val : Byte) (c : Chip) :
    sameButDetector c (detectVoice v r val c).1 := by
  unfold detectVoice
  dsimp only
  split_ifs
  · exact fmDetect_frame v r val c
  · exact sameButDetector_trans (fmDetect_frame v r val c) (pwmDetect_frame v r val _)
  · exact sameButDetector_trans (fmDetect_frame v r val c)
      (sameButDetector_trans (pwmDetect_frame v r val _) (swallowDetect_frame v r val _))

theorem detectAt_frame (reg : Nat) (val : Byte) (c : Chip) : sameButDetector c (detectAt reg val c).1 := by
  unfold detectAt
  split_ifs
  · exact detectVoice_frame _ _ _ _
  · exact d418Detect_frame _ _
  · exact sameButDetector_refl c

/-- Offering a write to the detector changes nothing but the detector and the mutes. -/
theorem detectSample_frame (addr : Addr) (val : Byte) (c : Chip) : sameButDetector c (detectSample addr val c).1 := by
  unfold detectSample
  split_ifs
  · exact sameButDetector_trans (psidLatch_frame addr val c) (detectAt_frame _ _ _)
  · exact sameButDetector_refl c

theorem resetCount_frame (c : Chip) : sameButDetector c (resetCount c) := by
  unfold resetCount
  split_ifs <;> rfl

theorem disableDetector_frame (c : Chip) : sameButDetector c (disableDetector c) := rfl
theorem enableDetector_frame (c : Chip) : sameButDetector c (enableDetector c) := rfl
theorem detectorReset_frame (c : Chip) : sameButDetector c (detectorReset c) := rfl
theorem psidAdvance_frame (c : Chip) : sameButDetector c (psidAdvance c) := by
  unfold psidAdvance
  split_ifs <;> rfl

/-! ### The pseudo-registers (20_memory.md R71, 43_digi_detector.md R262, R263) -/

/-- A pseudo-register's address, as a number: its window, and one of the seven offsets from 0x19 up. -/
theorem psidMap_toNat (r : PsidReg) :
    (psidMap r).toNat = 0xD000 + 32 * (Config.psidWindow r).toNat + (0x19 + (Config.psidOffset r).val) := by
  have h1 := (Config.psidWindow r).isLt
  have h2 := (Config.psidOffset r).isLt
  have h3 : (0x19 + (Config.psidOffset r).val) % 2 ^ 5 = 0x19 + (Config.psidOffset r).val := Nat.mod_eq_of_lt (by omega)
  simp only [psidMap, BitVec.toNat_append, BitVec.toNat_ofNat, h3]
  rw [← Nat.shiftLeft_add_eq_or_of_lt h1, ← Nat.shiftLeft_add_eq_or_of_lt (by omega)]
  simp only [Nat.shiftLeft_eq]
  omega

theorem regOf_toNat (addr : Addr) : (regOf addr).toNat = addr.toNat % 32 := by
  simp [regOf, BitVec.extractLsb'_toNat]

/-- A pseudo-register lies at an offset that `WRITE.UNMAPPED` writes. -/
theorem isUnmappedReg_psidMap (r : PsidReg) : isUnmappedReg (regOf (psidMap r)) = true := by
  have := (Config.psidOffset r).isLt
  simp only [isUnmappedReg, regOf_toNat, psidMap_toNat, decide_eq_true_eq]
  omega

/-- The register found at an address is one mapped there. -/
theorem psidRegAt_some {addr : Addr} {r : PsidReg} (h : psidRegAt addr = some r) : psidMap r = addr := by
  simpa using List.find?_some h

/-- No register is found at an address exactly where none is mapped to it. -/
theorem psidRegAt_eq_none_iff (addr : Addr) : psidRegAt addr = none ↔ ∀ r, psidMap r ≠ addr := by
  have hall : ∀ r, r ∈ psidOrder := fun r => by cases r <;> decide
  simp [psidRegAt, List.find?_eq_none, hall]

/-- None of the 25 mapped offsets is a pseudo-register. -/
theorem psidRegAt_of_mapped (addr : Addr) (h : isUnmappedReg (regOf addr) = false) : psidRegAt addr = none := by
  rw [psidRegAt_eq_none_iff]
  intro r e
  rw [← e, isUnmappedReg_psidMap] at h
  cases h

/-- The player of a real file latches nothing (43_digi_detector.md R261). -/
theorem psidLatch_of_realFile (addr : Addr) (val : Byte) (c : Chip) (h : c.realFile = true) :
    psidLatch addr val c = c := by
  unfold psidLatch psidLatched
  rw [if_pos h]

/-- A write to an address that is no pseudo-register moves no latch of the player. -/
theorem psidLatch_of_none (addr : Addr) (val : Byte) (c : Chip) (h : psidRegAt addr = none) :
    psidLatch addr val c = c := by
  simp [psidLatch, psidLatched, h]

/-- A write to one of the 25 mapped offsets moves no latch of the player. -/
theorem psidLatch_of_mapped (addr : Addr) (val : Byte) (c : Chip) (h : isUnmappedReg (regOf addr) = false) :
    psidLatch addr val c = c :=
  psidLatch_of_none addr val c (psidRegAt_of_mapped addr h)

/-- A write to one of the 25 mapped offsets is seen by the algorithms alone (43_digi_detector.md R216). -/
theorem detectSample_of_mapped (addr : Addr) (val : Byte) (c : Chip) (h : isUnmappedReg (regOf addr) = false) :
    detectSample addr val c = if c.det.en then detectAt (regOf addr).toNat val c else (c, false) := by
  rw [detectSample, psidLatch_of_mapped addr val c h]

/-! ### When a waveform write is consumed (43_digi_detector.md R230, R240) -/

/-- FM consumes a waveform write exactly at the last step of its second ordering, in time. -/
theorem fmOnWave_consumes_iff (v : Voice) (val : Byte) (c : Chip) :
    (fmOnWave v val c).2 = true ↔
      val = gateOnly ∧ (c.det.fm.get v).phase = .variant2
        ∧ within c.cyc (c.det.fm.get v).ts Config.fmTimeout = true := by
  unfold fmOnWave
  dsimp only
  split_ifs <;> simp_all [triGate, testGate, gateOnly]

/-- PWM-test consumes a waveform write exactly at the last step of either ordering, in time. -/
theorem pwmOnWave_consumes_iff (v : Voice) (val : Byte) (c : Chip) :
    (pwmOnWave v val c).2 = true ↔
      val = pulseGate ∧ ((c.det.pw.get v).phase = .confirmA ∨ (c.det.pw.get v).phase = .confirmB)
        ∧ within c.cyc (c.det.pw.get v).ts Config.pwmTimeout = true := by
  unfold pwmOnWave
  dsimp only
  split_ifs <;> simp_all [pulseTestGate, pulseGate]

/-- A waveform write that FM does not consume moves its automaton and nothing else. -/
theorem fmOnWave_of_not_consumed (v : Voice) (val : Byte) (c : Chip) (h : (fmOnWave v val c).2 = false) :
    ∃ f, (fmOnWave v val c).1 = setFm v f c := by
  unfold fmOnWave at *
  dsimp only at *
  split_ifs at * <;> exact ⟨_, rfl⟩

/-- A waveform write that PWM-test does not consume moves its automaton and nothing else. -/
theorem pwmOnWave_of_not_consumed (v : Voice) (val : Byte) (c : Chip) (h : (pwmOnWave v val c).2 = false) :
    ∃ p, (pwmOnWave v val c).1 = setPw v p c := by
  unfold pwmOnWave at *
  dsimp only at *
  split_ifs at * <;> exact ⟨_, rfl⟩

/-! ### A property every detector operation keeps -/

/-- The writes that reach no algorithm change nothing of the chip (43_digi_detector.md R216). -/
theorem detectAt_of_unwatched (reg : Nat) (val : Byte) (c : Chip) (h : 20 < reg) (h' : reg ≠ 0x18) :
    detectAt reg val c = (c, false) := by
  have hle : ¬ reg ≤ 20 := by omega
  simp [detectAt, hle, h']

/-- A write to an unmapped offset is seen by the PSID latches alone (43_digi_detector.md R216). -/
theorem detectSample_of_unmapped (addr : Addr) (val : Byte) (c : Chip) (h : isUnmappedReg (regOf addr) = true) :
    (detectSample addr val c).1 = if c.det.en then psidLatch addr val c else c := by
  have hr : 0x19 ≤ (regOf addr).toNat := by simpa [isUnmappedReg] using h
  unfold detectSample
  rw [detectAt_of_unwatched _ _ _ (by omega) (by omega)]
  split <;> rfl

/-- A property that every move of an automaton and every capture keeps, each voice algorithm keeps. -/
theorem detectVoice_keeps {P : Chip → Prop}
    (hfm : ∀ v f c, P c → P (setFm v f c)) (hpw : ∀ v p c, P c → P (setPw v p c))
    (hsw : ∀ v k c, P c → P (setSw v k c))
    (hcap : ∀ type v x c, type = .fm ∨ type = .pwm ∨ type = .swallow → P c → P (capture type v x c))
    (v : Voice) (r : Nat) (val : Byte) (c : Chip) (h : P c) : P (detectVoice v r val c).1 := by
  have h1 : ∀ c, P c → P (fmDetect v r val c).1 := by
    intro c h
    unfold fmDetect
    split
    · unfold fmOnFreqHi
      dsimp only
      split <;> try split
      all_goals first
        | exact h
        | exact hfm _ _ _ h
        | exact hcap _ _ _ _ (.inl rfl) (hfm _ _ _ h)
    · unfold fmOnWave
      dsimp only
      split_ifs <;> first
        | exact hfm _ _ _ h
        | exact hcap _ _ _ _ (.inl rfl) (hfm _ _ _ h)
    · exact h
  have h2 : ∀ c, P c → P (pwmDetect v r val c).1 := by
    intro c h
    unfold pwmDetect
    split
    · unfold pwmOnPwLo
      dsimp only
      split_ifs <;> exact hpw _ _ _ h
    · unfold pwmOnWave
      dsimp only
      split_ifs <;> first
        | exact hpw _ _ _ h
        | exact hcap _ _ _ _ (.inr (.inl rfl)) (hpw _ _ _ h)
    · exact h
  have h3 : ∀ c, P c → P (swallowDetect v r val c).1 := by
    have hpulse : ∀ q c, P c → P (swallowOnPulse v q val c).1 := by
      intro q c h
      unfold swallowOnPulse
      split
      · exact h
      · split_ifs
        · split
          · exact h
          · exact hcap _ _ _ _ (.inr (.inr rfl)) h
        · exact hsw _ _ _ h
    intro c h
    unfold swallowDetect
    split
    · exact hpulse _ c h
    · exact hpulse _ c h
    · unfold swallowOnWave
      split_ifs
      · exact hsw _ _ _ h
      · exact h
    · exact h
  unfold detectVoice
  dsimp only
  split_ifs
  · exact h1 c h
  · exact h2 _ (h1 c h)
  · exact h3 _ (h2 _ (h1 c h))

/-- A property that the latches, the automata, the captures and the volume samples keep, a whole detection keeps. -/
theorem detectSample_keeps {P : Chip → Prop}
    (hlatch : ∀ addr val c, P c → P (psidLatch addr val c))
    (hfm : ∀ v f c, P c → P (setFm v f c)) (hpw : ∀ v p c, P c → P (setPw v p c))
    (hsw : ∀ v k c, P c → P (setSw v k c))
    (hcap : ∀ type v x c, type = .fm ∨ type = .pwm ∨ type = .swallow → P c → P (capture type v x c))
    (hvol : ∀ val c, P c → P (d418Detect val c).1)
    (addr : Addr) (val : Byte) (c : Chip) (h : P c) : P (detectSample addr val c).1 := by
  unfold detectSample
  split_ifs
  · unfold detectAt
    split_ifs
    · exact detectVoice_keeps hfm hpw hsw hcap _ _ _ _ (hlatch _ _ _ h)
    · exact hvol _ _ (hlatch _ _ _ h)
    · exact hlatch _ _ _ h
  · exact h

end Sys2Proof.Machine
end

