-- ==== Sys2Proof/Laws/Encoding.lean ====
section
/-! SUPPORT. The fields of an assembled command word, and of an assembled bus address. -/

namespace Sys2Proof.Laws

@[simp] theorem opOf_commandWord (op sel : BitVec 8) (addr : Addr) (data : BitVec 32) :
    opOf (commandWord op sel addr data) = op := by
  ext j hj
  simp only [opOf, commandWord, BitVec.getElem_extractLsb', BitVec.getLsbD_append]
  have h1 : ¬ 56 + j < 32 := by omega
  have h2 : ¬ 56 + j - 32 < 16 := by omega
  have h3 : ¬ 56 + j - 32 - 16 < 8 := by omega
  have h4 : 56 + j - 32 - 16 - 8 = j := by omega
  simp [h1, h2, h3, h4, BitVec.getLsbD_eq_getElem hj]

@[simp] theorem selOf_commandWord (op sel : BitVec 8) (addr : Addr) (data : BitVec 32) :
    selOf (commandWord op sel addr data) = sel := by
  ext j hj
  simp only [selOf, commandWord, BitVec.getElem_extractLsb', BitVec.getLsbD_append]
  have h1 : ¬ 48 + j < 32 := by omega
  have h2 : ¬ 48 + j - 32 < 16 := by omega
  have h3 : 48 + j - 32 - 16 < 8 := by omega
  have h4 : 48 + j - 32 - 16 = j := by omega
  simp [h1, h2, hj, h4]

@[simp] theorem addrOf_commandWord (op sel : BitVec 8) (addr : Addr) (data : BitVec 32) :
    addrOf (commandWord op sel addr data) = addr := by
  ext j hj
  simp only [addrOf, commandWord, BitVec.getElem_extractLsb', BitVec.getLsbD_append]
  have h1 : ¬ 32 + j < 32 := by omega
  have h4 : 32 + j - 32 = j := by omega
  simp [h1, hj, h4]

@[simp] theorem dataOf_commandWord (op sel : BitVec 8) (addr : Addr) (data : BitVec 32) :
    dataOf (commandWord op sel addr data) = data := by
  ext j hj
  simp only [dataOf, commandWord, BitVec.getElem_extractLsb', BitVec.getLsbD_append]
  simp [hj]

theorem getLsbD_busAddr (win : BitVec 11) (reg : BitVec 5) (k : Nat) :
    (busAddr win reg).getLsbD k = if k < 5 then reg.getLsbD k else win.getLsbD (k - 5) :=
  BitVec.getLsbD_append

@[simp] theorem regOf_busAddr (win : BitVec 11) (reg : BitVec 5) : regOf (busAddr win reg) = reg := by
  ext j hj
  simp [regOf, BitVec.getElem_extractLsb', getLsbD_busAddr, hj]

@[simp] theorem winOf_busAddr (win : BitVec 11) (reg : BitVec 5) : winOf (busAddr win reg) = win := by
  ext j hj
  have h1 : ¬ 5 + j < 5 := by omega
  have h2 : 5 + j - 5 = j := by omega
  simp [winOf, BitVec.getElem_extractLsb', getLsbD_busAddr, h1, h2, BitVec.getLsbD_eq_getElem hj]

/-- A bus address is its window and its register offset. -/
theorem busAddr_winOf_regOf (addr : Addr) : busAddr (winOf addr) (regOf addr) = addr := by
  apply BitVec.eq_of_getLsbD_eq
  intro j hj
  rw [getLsbD_busAddr]
  split
  · rename_i h
    simp [regOf, h]
  · rename_i h
    have h1 : j - 5 < 11 := by omega
    have h2 : 5 + (j - 5) = j := by omega
    simp [winOf, h1, h2]

end Sys2Proof.Laws
end

