-- ==== Sys2Proof/Laws/Memory.lean ====
section
/-! SUPPORT. The laws of the caller's memories: a read after a write, bytes outside the written one, the canonical form,
and the same for 16-bit words and signed samples. -/

namespace Sys2Proof.Machine

@[simp] theorem readByte_nil (a : Nat) : readByte [] a = unlistedByte := rfl

@[simp] theorem wf_nil : Memory.wf [] = true := rfl

theorem wf_cons (x : Nat) (c : Byte) (rest : Memory) :
    Memory.wf ((x, c) :: rest) = true ↔
      c ≠ unlistedByte ∧ (∀ p ∈ rest, x < p.1) ∧ Memory.wf rest = true := by
  simp [Memory.wf, and_assoc]

/-- An address below every listed one is unlisted. -/
theorem readByte_of_lt (m : Memory) (a : Nat) (h : ∀ p ∈ m, a < p.1) : readByte m a = unlistedByte := by
  induction m with
  | nil => rfl
  | cons p rest ih =>
    obtain ⟨x, c⟩ := p
    have hx : a < x := h (x, c) (by simp)
    have hne : x ≠ a := by omega
    simp only [readByte, hne, if_false]
    exact ih fun q hq => h q (by simp [hq])

/-- The address of each entry of a written memory is the written one or was there before. -/
theorem mem_writeByte (a : Nat) (b : Byte) (m : Memory) (p : Host.Cell) (h : p ∈ writeByte a b m) :
    p.1 = a ∨ p ∈ m := by
  induction m with
  | nil =>
    unfold writeByte at h
    split at h <;> simp_all
  | cons q rest ih =>
    obtain ⟨x, c⟩ := q
    unfold writeByte at h
    by_cases hx : x < a
    · simp only [hx, if_true, List.mem_cons] at h ⊢
      rcases h with h | h
      · exact .inr (.inl h)
      · rcases ih h with h' | h'
        · exact .inl h'
        · exact .inr (.inr h')
    · simp only [hx, if_false] at h
      have h' : p = (a, b) ∨ p ∈ (x, c) :: rest := by
        split at h <;> split at h <;> simp_all
        rcases h with h | h <;> simp [h]
      rcases h' with h' | h'
      · exact .inl (by rw [h'])
      · exact .inr h'

/-- A write keeps the canonical form. -/
theorem wf_writeByte (a : Nat) (b : Byte) (m : Memory) (h : Memory.wf m = true) :
    Memory.wf (writeByte a b m) = true := by
  induction m with
  | nil =>
    unfold writeByte
    split <;> simp_all [Memory.wf]
  | cons q rest ih =>
    obtain ⟨x, c⟩ := q
    rw [wf_cons] at h
    obtain ⟨hc, hlt, hrest⟩ := h
    unfold writeByte
    by_cases hx : x < a
    · rw [if_pos hx, wf_cons]
      refine ⟨hc, fun p hp => ?_, ih hrest⟩
      rcases mem_writeByte a b rest p hp with h' | h'
      · omega
      · exact hlt p h'
    · rw [if_neg hx]
      by_cases ha : x = a
      · subst ha
        by_cases hb : b = unlistedByte
        · simpa [hb] using hrest
        · simp only [hb, if_true, if_false, wf_cons]
          exact ⟨hb, hlt, hrest⟩
      · have hax : a < x := by omega
        by_cases hb : b = unlistedByte
        · simp only [hb, ha, if_true, if_false, wf_cons]
          exact ⟨hc, hlt, hrest⟩
        · simp only [ha, hb, if_false, wf_cons]
          refine ⟨hb, fun p hp => ?_, hc, hlt, hrest⟩
          rcases List.mem_cons.mp hp with h' | h'
          · rw [h']; exact hax
          · exact lt_trans hax (hlt p h')

/-- The written byte reads back. -/
theorem readByte_writeByte_same (a : Nat) (b : Byte) (m : Memory) (h : Memory.wf m = true) :
    readByte (writeByte a b m) a = b := by
  induction m with
  | nil =>
    unfold writeByte
    split <;> simp_all [readByte]
  | cons q rest ih =>
    obtain ⟨x, c⟩ := q
    rw [wf_cons] at h
    obtain ⟨hc, hlt, hrest⟩ := h
    unfold writeByte
    by_cases hx : x < a
    · have hne : x ≠ a := by omega
      simp only [hx, if_true, readByte, hne, if_false]
      exact ih hrest
    · rw [if_neg hx]
      by_cases ha : x = a
      · subst ha
        by_cases hb : b = unlistedByte
        · simp only [if_true, hb]
          exact readByte_of_lt rest x hlt
        · simp [hb, readByte]
      · have hax : a < x := by omega
        by_cases hb : b = unlistedByte
        · simp only [ha, if_false, hb, if_true, readByte]
          exact readByte_of_lt rest a fun p hp => lt_trans hax (hlt p hp)
        · simp [ha, hb, readByte]

/-- A write leaves every other byte alone. -/
theorem readByte_writeByte_ne (a a' : Nat) (b : Byte) (m : Memory) (hne : a' ≠ a) :
    readByte (writeByte a b m) a' = readByte m a' := by
  induction m with
  | nil =>
    unfold writeByte
    split <;> simp_all [readByte, hne.symm]
  | cons q rest ih =>
    obtain ⟨x, c⟩ := q
    unfold writeByte
    by_cases hx : x < a
    · simp only [hx, if_true, readByte, ih]
    · rw [if_neg hx]
      by_cases ha : x = a
      · subst ha
        by_cases hb : b = unlistedByte <;> simp [hb, readByte, hne.symm]
      · by_cases hb : b = unlistedByte <;> simp [ha, hb, readByte, hne.symm]

/-! ### Words -/

/-- A word write keeps the canonical form. -/
theorem wf_writeWord (i : Nat) (w : BitVec 16) (m : Memory) (h : Memory.wf m = true) :
    Memory.wf (writeWord i w m) = true :=
  wf_writeByte _ _ _ (wf_writeByte _ _ _ h)

/-- A word write leaves every byte outside the word alone. -/
theorem readByte_writeWord_ne (i a : Nat) (w : BitVec 16) (m : Memory) (h : a ≠ 2 * i ∧ a ≠ 2 * i + 1) :
    readByte (writeWord i w m) a = readByte m a := by
  rw [writeWord, readByte_writeByte_ne _ _ _ _ h.2, readByte_writeByte_ne _ _ _ _ h.1]

/-- The written word reads back. -/
theorem readWord_writeWord_same (i : Nat) (w : BitVec 16) (m : Memory) (h : Memory.wf m = true) :
    readWord (writeWord i w m) i = w := by
  have hlo : readByte (writeWord i w m) (2 * i) = w.extractLsb' 0 8 := by
    rw [writeWord, readByte_writeByte_ne _ _ _ _ (by omega), readByte_writeByte_same _ _ _ h]
  have hhi : readByte (writeWord i w m) (2 * i + 1) = w.extractLsb' 8 8 := by
    rw [writeWord, readByte_writeByte_same _ _ _ (wf_writeByte _ _ _ h)]
  rw [readWord, hlo, hhi]
  ext j hj
  simp only [BitVec.getElem_append, BitVec.getElem_extractLsb']
  split
  · simp [BitVec.getLsbD_eq_getElem hj]
  · rename_i hge
    have : 8 + (j - 8) = j := by omega
    simp [this, BitVec.getLsbD_eq_getElem hj]

/-- A word write leaves every other word alone. -/
theorem readWord_writeWord_ne (i j : Nat) (w : BitVec 16) (m : Memory) (h : j ≠ i) :
    readWord (writeWord i w m) j = readWord m j := by
  rw [readWord, readWord, readByte_writeWord_ne _ _ _ _ (by omega), readByte_writeWord_ne _ _ _ _ (by omega)]

/-! ### Samples -/

theorem wf_writeSample (i : Nat) (y : Int) (m : Memory) (h : Memory.wf m = true) :
    Memory.wf (writeSample i y m) = true :=
  wf_writeWord _ _ _ h

/-- A value in the 16-bit range that is written reads back. -/
theorem readSample_writeSample_same (i : Nat) (y : Int) (m : Memory) (h : Memory.wf m = true)
    (hy : -32768 ≤ y ∧ y ≤ 32767) : readSample (writeSample i y m) i = y := by
  rw [readSample, writeSample, readWord_writeWord_same _ _ _ h, BitVec.toInt_ofInt]
  exact Int.bmod_eq_of_le (by omega) (by omega)

theorem readSample_writeSample_ne (i j : Nat) (y : Int) (m : Memory) (h : j ≠ i) :
    readSample (writeSample i y m) j = readSample m j := by
  rw [readSample, readSample, writeSample, readWord_writeWord_ne _ _ _ _ h]

/-- The PCM write keeps the canonical form. -/
theorem wf_pcmWrite (offset : BitVec 32) (chan : BitVec 1) (clearFlag : Bool) (y : Int) (m : Memory)
    (h : Memory.wf m = true) : Memory.wf (pcmWrite offset chan clearFlag y m) = true := by
  unfold pcmWrite
  cases clearFlag <;> exact wf_writeSample _ _ _ h

/-- The trace writes keep the canonical form of each buffer. -/
theorem wf_traceWrite (offset : BitVec 32) (t : PerVoice Int) (digi : Int) (tr : Traces)
    (h : ∀ v, Memory.wf (tr.voice.get v) = true) (hd : Memory.wf tr.digi = true) :
    (∀ v, Memory.wf ((traceWrite offset t digi tr).voice.get v) = true)
      ∧ Memory.wf (traceWrite offset t digi tr).digi = true := by
  refine ⟨fun v => ?_, wf_writeSample _ _ _ hd⟩
  have := h v
  cases v <;> exact wf_writeSample _ _ _ this

/-- The PCM buffer after reset is in canonical form. -/
theorem wf_reset_pcm : Memory.wf State.reset.pcm = true := rfl

/-- The trace buffers after reset are in canonical form. -/
theorem wf_reset_traces :
    (∀ v, Memory.wf (State.reset.traces.voice.get v) = true) ∧ Memory.wf State.reset.traces.digi = true :=
  ⟨fun v => by cases v <;> rfl, rfl⟩

/-- The PCM write leaves every byte outside its word alone. -/
theorem readByte_pcmWrite_ne (offset : BitVec 32) (chan : BitVec 1) (clearFlag : Bool) (y : Int) (m : Memory) (a : Nat)
    (h : a ≠ 2 * pcmIndex offset chan ∧ a ≠ 2 * pcmIndex offset chan + 1) :
    readByte (pcmWrite offset chan clearFlag y m) a = readByte m a := by
  unfold pcmWrite
  cases clearFlag <;> exact readByte_writeWord_ne _ _ _ _ h

end Sys2Proof.Machine
end

