-- ==== Sys2Proof/Laws/Outcome.lean ====
section
/-! SUPPORT. What each shared control operation can do: sequencing, the loops over the chips in use, the tests of a chip
and of a bus address. Each lemma says when the operation answers a next state, and which. -/

namespace Sys2Proof.Machine

theorem andThen_eq_next (r : Result) (k : State → Result) (t : State) :
    andThen r k = .next t ↔ ∃ u, r = .next u ∧ k u = .next t := by
  cases r <;> simp [andThen]

/-- A property that every turn of a loop keeps, the loop keeps. -/
theorem forEach_keeps {P : State → Prop} {f : Fin 10 → State → Result}
    (hf : ∀ i s t, f i s = .next t → P s → P t) :
    ∀ (l : List (Fin 10)) (s t : State), forEach f l s = .next t → P s → P t := by
  intro l
  induction l with
  | nil =>
    intro s t h hs
    simp only [forEach, Host.Outcome.next.injEq] at h
    exact h ▸ hs
  | cons i rest ih =>
    intro s t h hs
    simp only [forEach, andThen_eq_next] at h
    obtain ⟨u, hu, ht⟩ := h
    exact ih u t ht (hf i s u hu hs)

/-- A loop whose every turn answers a next state, whatever the turns before it did, answers one. -/
theorem forEach_completes {P : State → Prop} {f : Fin 10 → State → Result} (l : List (Fin 10))
    (hf : ∀ i ∈ l, ∀ s, P s → ∃ t, f i s = .next t ∧ P t) :
    ∀ s, P s → ∃ t, forEach f l s = .next t ∧ P t := by
  induction l with
  | nil => exact fun s hs => ⟨s, rfl, hs⟩
  | cons i rest ih =>
    intro s hs
    obtain ⟨u, hu, hPu⟩ := hf i (by simp) s hs
    obtain ⟨t, ht, hPt⟩ := ih (fun j hj => hf j (by simp [hj])) u hPu
    exact ⟨t, by simp [forEach, andThen, hu, ht], hPt⟩

theorem onInitialised_eq_next (i : Fin 10) (s : State) (k : Chip → Result) (t : State) :
    onInitialised i s k = .next t ↔ (s.chip i).life ≠ .uninit ∧ k (s.chip i) = .next t := by
  unfold onInitialised
  split <;> simp_all

theorem onInitialised_of_life (i : Fin 10) (s : State) (k : Chip → Result) (h : (s.chip i).life ≠ .uninit) :
    onInitialised i s k = k (s.chip i) := by
  simp [onInitialised, h]

/-- The chip a selector names is the selector's number. -/
theorem chipIndex_eq_some (c : BitVec 8) (i : Fin 10) : chipIndex c = some i ↔ c.toNat = i.val := by
  unfold chipIndex
  split
  · simp [Fin.ext_iff]
  · rename_i h
    constructor
    · simp
    · intro e
      have := i.isLt
      omega

/-- The selectors that name no chip (30_encoding.md R115). -/
theorem chipIndex_eq_none (c : BitVec 8) : chipIndex c = none ↔ 10 ≤ c.toNat := by
  unfold chipIndex
  split <;> simp <;> omega

theorem onChip_eq_next (c : BitVec 8) (s : State) (absent : Result) (k : Fin 10 → Chip → Result) (t : State) :
    onChip c s absent k = .next t ↔
      (chipIndex c = none ∧ absent = .next t) ∨ ∃ i, s.selects c i ∧ k i (s.chip i) = .next t := by
  unfold onChip State.selects
  split <;> rename_i hi
  · simp [hi]
  · simp [hi, onInitialised_eq_next]

theorem onChip_of_selects (c : BitVec 8) (s : State) (absent : Result) (k : Fin 10 → Chip → Result) (i : Fin 10)
    (h : s.selects c i) : onChip c s absent k = k i (s.chip i) := by
  simp [onChip, h.1, onInitialised_of_life _ _ _ h.2]

theorem onChip_of_absent (c : BitVec 8) (s : State) (absent : Result) (k : Fin 10 → Chip → Result)
    (h : chipIndex c = none) : onChip c s absent k = absent := by
  simp [onChip, h]

theorem onBus_eq_next (a : Addr) (s : State) (k : Fin 10 → Chip → Result) (t : State) :
    onBus a s k = .next t ↔ ∃ i, s.reaches a i ∧ k i (s.chip i) = .next t := by
  unfold onBus State.reaches
  split <;> rename_i hi
  · simp [hi]
  · simp [hi, onInitialised_eq_next]

theorem onBus_of_reaches (a : Addr) (s : State) (k : Fin 10 → Chip → Result) (i : Fin 10) (h : s.reaches a i) :
    onBus a s k = k i (s.chip i) := by
  simp [onBus, h.1, onInitialised_of_life _ _ _ h.2]

theorem respond_eq_next (w : BitVec 32) (s t : State) :
    respond w s = .next t ↔ t = { s with responses := s.responses ++ [w] } := by
  simp [respond, eq_comm]

/-- The chips in use are those below `N_USED` (10_state.md R53). -/
theorem mem_activeChips (s : State) (i : Fin 10) : i ∈ activeChips s ↔ i.val < s.registry.nUsed.val := by
  have h : i ∈ chipOrder := by revert i; decide
  simp [activeChips, chipsBelow, h]

end Sys2Proof.Machine
end

