-- ==== Sys2Proof/Laws/PerInstr.lean ====
section
/-! SUPPORT. Facts about every command, one lemma per constructor. `RowOpcode`: the encoder writes the opcode of the
command's row (30_encoding.md R102). -/

namespace Sys2Proof.Laws

/-- The opcode of each command's row (30_encoding.md R102). -/
def rowOpcode : Instr → BitVec 8
  | .writeFreqLo _ _ _ => 0x01
  | .writeFreqHi _ _ _ => 0x01
  | .writePwLo _ _ _ => 0x01
  | .writePwHi _ _ _ => 0x01
  | .writeWave _ _ _ => 0x01
  | .writeAd _ _ _ => 0x01
  | .writeSr _ _ _ => 0x01
  | .writeFcLo _ _ => 0x01
  | .writeFcHi _ _ => 0x01
  | .writeResFilt _ _ => 0x01
  | .writeModeVol _ _ => 0x01
  | .writeUnmapped _ _ => 0x01
  | .readBus _ => 0x02
  | .readOsc3 _ => 0x02
  | .readEnv3 _ => 0x02
  | .peekBus _ => 0x03
  | .peekOsc3 _ => 0x03
  | .peekEnv3 _ => 0x03
  | .clockAll => 0x04
  | .synthAll _ _ => 0x05
  | .synthAllStripped _ => 0x06
  | .resetAll => 0x07
  | .configSrate _ => 0x08
  | .configCrate _ => 0x08
  | .configFlags _ _ _ _ => 0x08
  | .configCount _ => 0x08
  | .configChip _ _ _ _ _ => 0x08
  | .configReserved _ => 0x08
  | .setModels _ => 0x09
  | .digiCtrlResetCount _ => 0x0A
  | .digiCtrlDisable _ => 0x0A
  | .digiCtrlEnable _ => 0x0A
  | .digiCtrlReset _ => 0x0A
  | .digiQueryType _ => 0x0B
  | .digiQueryRate _ => 0x0B
  | .digiQueryDesc _ => 0x0B
  | .digiQueryReserved _ => 0x0B
  | .clock _ => 0x0C
  | .synth _ _ _ _ _ => 0x0D
  | .synthStripped _ _ _ _ => 0x0E
  | .reset _ => 0x0F
  | .reserved op => op

/-- The encoder writes the opcode of the command's row. -/
def RowOpcode.Statement (i : Instr) : Prop := opOf (encode i) = rowOpcode i

theorem RowOpcode.writeFreqLo (win : BitVec 11) (v : Voice) (val : Byte) :
    RowOpcode.Statement (.writeFreqLo win v val) :=
  opOf_commandWord _ _ _ _

theorem RowOpcode.writeFreqHi (win : BitVec 11) (v : Voice) (val : Byte) :
    RowOpcode.Statement (.writeFreqHi win v val) :=
  opOf_commandWord _ _ _ _

theorem RowOpcode.writePwLo (win : BitVec 11) (v : Voice) (val : Byte) :
    RowOpcode.Statement (.writePwLo win v val) :=
  opOf_commandWord _ _ _ _

theorem RowOpcode.writePwHi (win : BitVec 11) (v : Voice) (val : Byte) :
    RowOpcode.Statement (.writePwHi win v val) :=
  opOf_commandWord _ _ _ _

theorem RowOpcode.writeWave (win : BitVec 11) (v : Voice) (val : Byte) :
    RowOpcode.Statement (.writeWave win v val) :=
  opOf_commandWord _ _ _ _

theorem RowOpcode.writeAd (win : BitVec 11) (v : Voice) (val : Byte) :
    RowOpcode.Statement (.writeAd win v val) :=
  opOf_commandWord _ _ _ _

theorem RowOpcode.writeSr (win : BitVec 11) (v : Voice) (val : Byte) :
    RowOpcode.Statement (.writeSr win v val) :=
  opOf_commandWord _ _ _ _

theorem RowOpcode.writeFcLo (win : BitVec 11) (val : Byte) :
    RowOpcode.Statement (.writeFcLo win val) :=
  opOf_commandWord _ _ _ _

theorem RowOpcode.writeFcHi (win : BitVec 11) (val : Byte) :
    RowOpcode.Statement (.writeFcHi win val) :=
  opOf_commandWord _ _ _ _

theorem RowOpcode.writeResFilt (win : BitVec 11) (val : Byte) :
    RowOpcode.Statement (.writeResFilt win val) :=
  opOf_commandWord _ _ _ _

theorem RowOpcode.writeModeVol (win : BitVec 11) (val : Byte) :
    RowOpcode.Statement (.writeModeVol win val) :=
  opOf_commandWord _ _ _ _

theorem RowOpcode.writeUnmapped (addr : Addr) (val : Byte) :
    RowOpcode.Statement (.writeUnmapped addr val) :=
  opOf_commandWord _ _ _ _

theorem RowOpcode.readBus (addr : Addr) :
    RowOpcode.Statement (.readBus addr) :=
  opOf_commandWord _ _ _ _

theorem RowOpcode.readOsc3 (win : BitVec 11) :
    RowOpcode.Statement (.readOsc3 win) :=
  opOf_commandWord _ _ _ _

theorem RowOpcode.readEnv3 (win : BitVec 11) :
    RowOpcode.Statement (.readEnv3 win) :=
  opOf_commandWord _ _ _ _

theorem RowOpcode.peekBus (addr : Addr) :
    RowOpcode.Statement (.peekBus addr) :=
  opOf_commandWord _ _ _ _

theorem RowOpcode.peekOsc3 (win : BitVec 11) :
    RowOpcode.Statement (.peekOsc3 win) :=
  opOf_commandWord _ _ _ _

theorem RowOpcode.peekEnv3 (win : BitVec 11) :
    RowOpcode.Statement (.peekEnv3 win) :=
  opOf_commandWord _ _ _ _

theorem RowOpcode.clockAll :
    RowOpcode.Statement (.clockAll) :=
  opOf_commandWord _ _ _ _

theorem RowOpcode.synthAll (traceEn : Bool) (offset : BitVec 32) :
    RowOpcode.Statement (.synthAll traceEn offset) :=
  opOf_commandWord _ _ _ _

theorem RowOpcode.synthAllStripped (offset : BitVec 32) :
    RowOpcode.Statement (.synthAllStripped offset) :=
  opOf_commandWord _ _ _ _

theorem RowOpcode.resetAll :
    RowOpcode.Statement (.resetAll) :=
  opOf_commandWord _ _ _ _

theorem RowOpcode.configSrate (n : BitVec 32) :
    RowOpcode.Statement (.configSrate n) :=
  opOf_commandWord _ _ _ _

theorem RowOpcode.configCrate (n : BitVec 32) :
    RowOpcode.Statement (.configCrate n) :=
  opOf_commandWord _ _ _ _

theorem RowOpcode.configFlags (realFile compat extMulti extFilt : Bool) :
    RowOpcode.Statement (.configFlags realFile compat extMulti extFilt) :=
  opOf_commandWord _ _ _ _

theorem RowOpcode.configCount (n : BitVec 4) :
    RowOpcode.Statement (.configCount n) :=
  opOf_commandWord _ _ _ _

theorem RowOpcode.configChip (slot : Fin 10) (base : Addr) (m6581 : Bool) (ovr : BitVec 2) (chan : BitVec 1) :
    RowOpcode.Statement (.configChip slot base m6581 ovr chan) :=
  opOf_commandWord _ _ _ _

theorem RowOpcode.configReserved (sel : BitVec 8) :
    RowOpcode.Statement (.configReserved sel) :=
  opOf_commandWord _ _ _ _

theorem RowOpcode.setModels (bits : BitVec 10) :
    RowOpcode.Statement (.setModels bits) :=
  opOf_commandWord _ _ _ _

theorem RowOpcode.digiCtrlResetCount (c : BitVec 8) :
    RowOpcode.Statement (.digiCtrlResetCount c) :=
  opOf_commandWord _ _ _ _

theorem RowOpcode.digiCtrlDisable (c : BitVec 8) :
    RowOpcode.Statement (.digiCtrlDisable c) :=
  opOf_commandWord _ _ _ _

theorem RowOpcode.digiCtrlEnable (c : BitVec 8) :
    RowOpcode.Statement (.digiCtrlEnable c) :=
  opOf_commandWord _ _ _ _

theorem RowOpcode.digiCtrlReset (c : BitVec 8) :
    RowOpcode.Statement (.digiCtrlReset c) :=
  opOf_commandWord _ _ _ _

theorem RowOpcode.digiQueryType (c : BitVec 8) :
    RowOpcode.Statement (.digiQueryType c) :=
  opOf_commandWord _ _ _ _

theorem RowOpcode.digiQueryRate (c : BitVec 8) :
    RowOpcode.Statement (.digiQueryRate c) :=
  opOf_commandWord _ _ _ _

theorem RowOpcode.digiQueryDesc (c : BitVec 8) :
    RowOpcode.Statement (.digiQueryDesc c) :=
  opOf_commandWord _ _ _ _

theorem RowOpcode.digiQueryReserved (c : BitVec 8) :
    RowOpcode.Statement (.digiQueryReserved c) :=
  opOf_commandWord _ _ _ _

theorem RowOpcode.clock (c : BitVec 8) :
    RowOpcode.Statement (.clock c) :=
  opOf_commandWord _ _ _ _

theorem RowOpcode.synth (c : BitVec 8) (scale : Byte) (clearFlag traceEn : Bool) (offset : BitVec 32) :
    RowOpcode.Statement (.synth c scale clearFlag traceEn offset) :=
  opOf_commandWord _ _ _ _

theorem RowOpcode.synthStripped (c : BitVec 8) (scale : Byte) (clearFlag : Bool) (offset : BitVec 32) :
    RowOpcode.Statement (.synthStripped c scale clearFlag offset) :=
  opOf_commandWord _ _ _ _

theorem RowOpcode.reset (c : BitVec 8) :
    RowOpcode.Statement (.reset c) :=
  opOf_commandWord _ _ _ _

theorem RowOpcode.reserved (op : BitVec 8) :
    RowOpcode.Statement (.reserved op) :=
  opOf_commandWord _ _ _ _

end Sys2Proof.Laws
end

