-- ==== Sys2Proof/Laws/Render.lean ====
section
/-! SUPPORT. What rendering can do: to the chip, its filter histories, its external filter, its player and nothing else;
to the memories, one clipped word each. -/

namespace Sys2Proof.Machine

/-! ### The clip (44_render.md R300) -/

theorem clip_bounds (x : Int) : -32767 ≤ clip x ∧ clip x ≤ 32767 := by
  unfold clip clipBound
  split
  · omega
  · split <;> omega

theorem clip_eq_self (x : Int) (h : -32767 ≤ x ∧ x ≤ 32767) : clip x = x := by
  unfold clip clipBound
  split
  · omega
  · split <;> omega

/-! ### The chip after a tick -/

/-- Nothing of a chip has changed but its filter's histories, its external filter and its detector. -/
def sameButRendering (c d : Chip) : Prop :=
  d = { c with
    filter := { c.filter with fh := d.filter.fh, fs := d.filter.fs, extY := d.filter.extY }
    det := { c.det with psid := d.det.psid } }

theorem sameButRendering_refl (c : Chip) : sameButRendering c c := rfl

theorem sameButRendering_trans {a b c : Chip} (h : sameButRendering a b) (k : sameButRendering b c) :
    sameButRendering a c := by
  unfold sameButRendering at *
  rw [h] at k
  exact k

theorem simState_frame (c : Chip) (v : Voice) (x : Int) : sameButRendering c (simState c v x) := by
  unfold simState
  split <;> rfl

theorem outputState_frame (c : Chip) (sm : Sums) : sameButRendering c (outputState c sm) := by
  unfold outputState
  split <;> rfl

theorem extState_frame (extEn : Bool) (c : Chip) (m : Int) : sameButRendering c (extState extEn c m) := by
  unfold extState
  split <;> rfl

theorem psidAdvance_rendering (c : Chip) : sameButRendering c (psidAdvance c) := by
  unfold psidAdvance
  split <;> rfl

theorem renderVoice_frame (scale : Byte) (traceEn : Bool) (k : Tick) (v : Voice) :
    sameButRendering k.chip (renderVoice scale traceEn k v).chip := by
  unfold renderVoice
  split
  · exact sameButRendering_refl _
  · dsimp only
    split
    · exact simState_frame _ _ _
    · exact sameButRendering_refl _

theorem renderVoices_frame (scale : Byte) (traceEn : Bool) (c : Chip) :
    sameButRendering c (renderVoices scale traceEn c).chip := by
  simp only [renderVoices, List.foldl_cons, List.foldl_nil]
  exact sameButRendering_trans (renderVoice_frame scale traceEn ⟨c, ⟨0, 0⟩, perVoice 0⟩ .v0)
    (sameButRendering_trans (renderVoice_frame scale traceEn _ .v1) (renderVoice_frame scale traceEn _ .v2))

/-- SYNTH writes `LIFE`, the histories, `EXT_Y` and the PSID player of the chip, and nothing else of it (44_render.md
R291). -/
theorem synthTick_frame (extEn traceEn : Bool) (scale : Byte) (reads : Nat) (c : Chip) :
    sameButRendering { c with life := .active } (synthTick extEn traceEn scale reads c).chip := by
  unfold synthTick
  dsimp only
  exact sameButRendering_trans (renderVoices_frame scale traceEn _)
    (sameButRendering_trans (outputState_frame _ _)
      (sameButRendering_trans (extState_frame _ _ _) (psidAdvance_rendering _)))

/-- SYNTH_STRIPPED writes `LIFE`, `FH` and `EXT_Y` of the chip (44_render.md R305). -/
theorem strippedTick_frame (extEn : Bool) (scale : Byte) (c : Chip) :
    sameButRendering { c with life := .active } (strippedTick extEn scale c).1 := by
  unfold strippedTick
  dsimp only
  exact sameButRendering_trans (renderVoices_frame scale false _)
    (sameButRendering_trans (outputState_frame _ _) (extState_frame _ _ _))

/-- Without tracing the voices leave the chip as it was (R303). -/
theorem renderVoices_untraced (scale : Byte) (c : Chip) : (renderVoices scale false c).chip = c := by
  have h : ∀ (k : Tick) (v : Voice), (renderVoice scale false k v).chip = k.chip := by
    intro k v
    unfold renderVoice
    split <;> rfl
  simp only [renderVoices, List.foldl_cons, List.foldl_nil, h]

/-- A voice's turn moves at most its own visualisation history and its own trace word (R295, R303). -/
theorem renderVoice_keeps (scale : Byte) (traceEn : Bool) (k : Tick) (v : Voice) :
    (renderVoice scale traceEn k v).chip.filter.fh = k.chip.filter.fh
      ∧ (renderVoice scale traceEn k v).chip.filter.extY = k.chip.filter.extY
      ∧ (renderVoice scale traceEn k v).chip.det = k.chip.det
      ∧ ∀ u, u ≠ v →
          (renderVoice scale traceEn k v).chip.filter.fs.get u = k.chip.filter.fs.get u
            ∧ (renderVoice scale traceEn k v).t.get u = k.t.get u := by
  unfold renderVoice
  split
  · exact ⟨rfl, rfl, rfl, fun _ _ => ⟨rfl, rfl⟩⟩
  · dsimp only
    split
    · refine ⟨?_, ?_, ?_, fun u hu => ⟨?_, by simp [hu]⟩⟩ <;> unfold simState <;> split <;> simp_all
    · exact ⟨rfl, rfl, rfl, fun _ _ => ⟨rfl, rfl⟩⟩

/-- What routing one signal does to the two sums: its level into the filtered one, the unfiltered one, or, for a
disconnected voice 3, neither (42_filter.md R191). -/
theorem routeSignal_eq (flt : Filter) (x : Int) (sm : Sums) (v : Voice) :
    routeSignal flt x sm v =
      ⟨sm.f + if flt.filt.get v = true then x else 0,
       sm.u + if flt.filt.get v = true ∨ (v = .v2 ∧ flt.v3off = true) then 0 else x⟩ := by
  unfold routeSignal isSilencedVoice3
  by_cases h1 : flt.filt.get v = true
  · simp [h1]
  · by_cases h2 : v = .v2
    · subst h2
      have h3 : flt.filt.v2 = false := by simpa [PerVoice.get] using h1
      by_cases h4 : flt.v3off = true <;> simp [PerVoice.get, h3, h4]
    · simp [h1, h2]

/-! ### Every stored value is a clipped one -/

theorem synthTick_y (extEn traceEn : Bool) (scale : Byte) (reads : Nat) (c : Chip) :
    ∃ x, (synthTick extEn traceEn scale reads c).y = clip x := ⟨_, rfl⟩

theorem synthTick_digi (extEn traceEn : Bool) (scale : Byte) (reads : Nat) (c : Chip) :
    ∃ x, (synthTick extEn traceEn scale reads c).digi = clip x := ⟨_, rfl⟩

theorem renderVoice_t (scale : Byte) (traceEn : Bool) (k : Tick) (u : Voice) (h : ∀ v, ∃ x, k.t.get v = clip x) (v : Voice) :
    ∃ x, ((renderVoice scale traceEn k u).t.get v) = clip x := by
  unfold renderVoice
  split
  · exact h v
  · dsimp only
    split
    · by_cases e : v = u
      · subst e
        exact ⟨_, by rw [PerVoice.get_set_same]; rfl⟩
      · rw [PerVoice.get_set_ne _ _ _ _ e]
        exact h v
    · exact h v

/-- A trace word of a tick is a clipped level; that of a muted voice is 0 (44_render.md R303). -/
theorem synthTick_t (extEn traceEn : Bool) (scale : Byte) (reads : Nat) (c : Chip) (v : Voice) :
    ∃ x, (synthTick extEn traceEn scale reads c).t.get v = clip x := by
  simp only [synthTick, renderVoices, List.foldl_cons, List.foldl_nil]
  refine renderVoice_t _ _ _ _ (fun v => renderVoice_t _ _ _ _ (fun v => renderVoice_t _ _ _ _ (fun v => ?_) v) v) v
  exact ⟨0, by rw [get_perVoice]; rfl⟩

/-! ### The memories after a command -/

/-- A property of all five memories. -/
def allMemories (P : Memory → Prop) (s : State) : Prop :=
  P s.pcm ∧ (∀ v, P (s.traces.voice.get v)) ∧ P s.traces.digi

theorem pcmWrite_keeps {P : Memory → Prop} (hP : ∀ i x m, P m → P (writeSample i (clip x) m)) (offset : BitVec 32)
    (chan : BitVec 1) (clearFlag : Bool) (x : Int) (m : Memory) (h : P m) :
    P (pcmWrite offset chan clearFlag (clip x) m) := by
  unfold pcmWrite
  cases clearFlag
  · exact hP _ _ _ h
  · exact hP _ _ _ h

/-- A property of a memory that the store of a clipped word keeps, SYNTH keeps of every memory. -/
theorem synthAt_keeps_memories {P : Memory → Prop} (hP : ∀ i x m, P m → P (writeSample i (clip x) m)) (i : Fin 10)
    (scale : Byte) (clearFlag traceEn : Bool) (offset : BitVec 32) (s t : State)
    (h : synthAt i scale clearFlag traceEn offset s = .next t) (hs : allMemories P s) : allMemories P t := by
  simp only [synthAt, onInitialised_eq_next, Host.Outcome.next.injEq] at h
  obtain ⟨_, rfl⟩ := h
  obtain ⟨hpcm, htr, hdigi⟩ := hs
  generalize hq : synthTick s.registry.extEn traceEn scale s.ramReads (s.chip i) = q
  have hy : ∃ x, q.y = clip x := hq ▸ synthTick_y _ _ _ _ _
  have hd : ∃ x, q.digi = clip x := hq ▸ synthTick_digi _ _ _ _ _
  have ht : ∀ v, ∃ x, q.t.get v = clip x := fun v => hq ▸ synthTick_t _ _ _ _ _ v
  obtain ⟨y, hy⟩ := hy
  obtain ⟨d, hd⟩ := hd
  refine ⟨?_, fun v => ?_, ?_⟩
  · simp only [storeSample, hy]
    exact pcmWrite_keeps hP _ _ _ _ _ hpcm
  · obtain ⟨x, hx⟩ := ht v
    simp only [storeSample]
    split
    · have := hP offset.toNat x _ (htr v)
      rw [← hx] at this
      cases v <;> exact this
    · exact htr v
  · simp only [storeSample]
    split
    · simp only [traceWrite, hd]
      exact hP _ _ _ hdigi
    · exact hdigi

theorem synthStrippedAt_keeps_memories {P : Memory → Prop} (hP : ∀ i x m, P m → P (writeSample i (clip x) m))
    (i : Fin 10) (scale : Byte) (clearFlag : Bool) (offset : BitVec 32) (s t : State)
    (h : synthStrippedAt i scale clearFlag offset s = .next t) (hs : allMemories P s) : allMemories P t := by
  simp only [synthStrippedAt, onInitialised_eq_next, Host.Outcome.next.injEq] at h
  obtain ⟨_, rfl⟩ := h
  exact ⟨pcmWrite_keeps hP _ _ _ _ _ hs.1, hs.2.1, hs.2.2⟩

end Sys2Proof.Machine
end

