-- ==== Sys2Proof/Laws/Step.lean ====
section
/-! SUPPORT. What a step can do, said once: the moves of one chip, and the moves of the state. A property of a chip that
every move keeps, every step keeps. -/

namespace Sys2Proof.Machine

/-- What one command can do to chip `i`. -/
inductive ChipMove (i : Fin 10) (c : Chip) : Chip → Prop where
  | freqLo (a : Addr) (v : Voice) (val : Byte) (h : c.life ≠ .uninit) : ChipMove i c (writeChip a val (pokeFreqLo v val) c)
  | freqHi (a : Addr) (v : Voice) (val : Byte) (h : c.life ≠ .uninit) : ChipMove i c (writeChip a val (pokeFreqHi v val) c)
  | pwLo (a : Addr) (v : Voice) (val : Byte) (h : c.life ≠ .uninit) : ChipMove i c (writeChip a val (pokePwLo v val) c)
  | pwHi (a : Addr) (v : Voice) (val : Byte) (h : c.life ≠ .uninit) : ChipMove i c (writeChip a val (pokePwHi v val) c)
  | wave (a : Addr) (v : Voice) (val : Byte) (h : c.life ≠ .uninit) : ChipMove i c (writeChip a val (pokeWave v val) c)
  | ad (a : Addr) (v : Voice) (val : Byte) (h : c.life ≠ .uninit) : ChipMove i c (writeChip a val (pokeAd v val) c)
  | sr (a : Addr) (v : Voice) (val : Byte) (h : c.life ≠ .uninit) : ChipMove i c (writeChip a val (pokeSr v val) c)
  | fcLo (a : Addr) (val : Byte) (h : c.life ≠ .uninit) : ChipMove i c (writeChip a val (filterPoke (pokeFcLo val)) c)
  | fcHi (a : Addr) (val : Byte) (h : c.life ≠ .uninit) : ChipMove i c (writeChip a val (filterPoke (pokeFcHi val)) c)
  | resFilt (a : Addr) (val : Byte) (h : c.life ≠ .uninit) : ChipMove i c (writeChip a val (filterPoke (pokeResFilt val)) c)
  | modeVol (a : Addr) (val : Byte) (h : c.life ≠ .uninit) : ChipMove i c (writeChip a val (pokeModeVol val) c)
  | unmapped (a : Addr) (val : Byte) (h : c.life ≠ .uninit) : ChipMove i c (writeChip a val pokeUnmapped c)
  | clocked (h : c.life ≠ .uninit) : ChipMove i c (clockChip c)
  | rendered (extEn traceEn : Bool) (scale : Byte) (reads : Nat) (h : c.life ≠ .uninit) :
      ChipMove i c (synthTick extEn traceEn scale reads c).chip
  | stripped (extEn : Bool) (scale : Byte) (h : c.life ≠ .uninit) : ChipMove i c (strippedTick extEn scale c).1
  | countReset (h : c.life ≠ .uninit) : ChipMove i c (resetCount c)
  | disabled (h : c.life ≠ .uninit) : ChipMove i c (disableDetector c)
  | enabled (h : c.life ≠ .uninit) : ChipMove i c (enableDetector c)
  | detReset (h : c.life ≠ .uninit) : ChipMove i c (detectorReset c)
  | modelSet (m : ChipModel) : ChipMove i c (setModel m c)
  | reset (a : ResetArgs) (hs : a.srate ≠ 0) (hc : a.crate ≠ 0) (h0 : i = 0 → a.addr = chip0Base) :
      ChipMove i c (resetChip a)

/-- From `s` to `t` each chip has made a chain of moves. -/
def ChipsMove (s t : State) : Prop := ∀ i, Relation.ReflTransGen (ChipMove i) (s.chip i) (t.chip i)

theorem chipsMove_refl (s t : State) (h : t.chips = s.chips) : ChipsMove s t := by
  intro i
  have : t.chip i = s.chip i := by simp [State.chip, h]
  rw [this]

theorem chipsMove_trans {s t u : State} (h : ChipsMove s t) (k : ChipsMove t u) : ChipsMove s u :=
  fun i => (h i).trans (k i)

/-- One chip makes one move. -/
theorem chipsMove_one (s t : State) (i : Fin 10) (c : Chip) (h : ChipMove i (s.chip i) c)
    (ht : t.chips = (s.setChip i c).chips) : ChipsMove s t := by
  intro j
  have hj : t.chip j = (s.setChip i c).chip j := by simp [State.chip, ht]
  rw [hj, chip_setChip]
  split
  · rename_i e
    subst e
    exact Relation.ReflTransGen.single h
  · exact Relation.ReflTransGen.refl

/-- A property that every move keeps, a chain of moves keeps. -/
theorem chipsMove_keeps {P : Fin 10 → Chip → Prop} (hP : ∀ i c d, ChipMove i c d → P i c → P i d) {s t : State}
    (h : ChipsMove s t) (hs : ∀ i, P i (s.chip i)) (i : Fin 10) : P i (t.chip i) := by
  have hi := hs i
  have hc := h i
  generalize t.chip i = d at hc ⊢
  induction hc with
  | refl => exact hi
  | tail _ hm ih => exact hP i _ _ hm ih

/-! ### Shared operations -/

theorem writeBus_chipsMove {a : Addr} {val : Byte} {poke : Chip → Chip} {s t : State}
    (hm : ∀ i c, c.life ≠ .uninit → ChipMove i c (writeChip a val poke c)) (h : writeBus a val poke s = .next t) :
    ChipsMove s t := by
  simp only [writeBus, onBus_eq_next, Host.Outcome.next.injEq] at h
  obtain ⟨i, hi, rfl⟩ := h
  exact chipsMove_one s _ i _ (hm i _ hi.2) rfl

theorem readBusWith_chipsMove {a : Addr} {f : Chip → Byte} {s t : State} (h : readBusWith a f s = .next t) :
    ChipsMove s t := by
  simp only [readBusWith, onBus_eq_next, respond_eq_next] at h
  obtain ⟨i, _, rfl⟩ := h
  exact chipsMove_refl s _ rfl

theorem digiCtrl_chipsMove {c : BitVec 8} {f : Chip → Chip} {s t : State}
    (hm : ∀ i c, c.life ≠ .uninit → ChipMove i c (f c)) (h : digiCtrl c s f = .next t) : ChipsMove s t := by
  simp only [digiCtrl, onChip_eq_next, Host.Outcome.next.injEq] at h
  rcases h with ⟨_, rfl⟩ | ⟨i, hi, rfl⟩
  · exact chipsMove_refl s _ rfl
  · exact chipsMove_one s _ i _ (hm i _ hi.2) rfl

theorem digiQuery_chipsMove {c : BitVec 8} {f : Detector → BitVec 32} {s t : State} (h : digiQuery c s f = .next t) :
    ChipsMove s t := by
  simp only [digiQuery, onChip_eq_next, respond_eq_next] at h
  rcases h with ⟨_, rfl⟩ | ⟨i, _, rfl⟩ <;> exact chipsMove_refl s _ rfl

theorem clockAt_chipsMove {i : Fin 10} {s t : State} (h : clockAt i s = .next t) : ChipsMove s t := by
  simp only [clockAt, onInitialised_eq_next, Host.Outcome.next.injEq] at h
  obtain ⟨hi, rfl⟩ := h
  exact chipsMove_one s _ i _ (.clocked hi) rfl

theorem synthAt_chipsMove {i : Fin 10} {scale : Byte} {clearFlag traceEn : Bool} {offset : BitVec 32} {s t : State}
    (h : synthAt i scale clearFlag traceEn offset s = .next t) : ChipsMove s t := by
  simp only [synthAt, onInitialised_eq_next, Host.Outcome.next.injEq] at h
  obtain ⟨hi, rfl⟩ := h
  exact chipsMove_one s _ i _ (.rendered _ _ _ _ hi) rfl

theorem synthStrippedAt_chipsMove {i : Fin 10} {scale : Byte} {clearFlag : Bool} {offset : BitVec 32} {s t : State}
    (h : synthStrippedAt i scale clearFlag offset s = .next t) : ChipsMove s t := by
  simp only [synthStrippedAt, onInitialised_eq_next, Host.Outcome.next.injEq] at h
  obtain ⟨hi, rfl⟩ := h
  exact chipsMove_one s _ i _ (.stripped _ _ hi) rfl

theorem forEach_chipsMove {f : Fin 10 → State → Result} (hf : ∀ i s t, f i s = .next t → ChipsMove s t)
    {l : List (Fin 10)} {s t : State} (h : forEach f l s = .next t) : ChipsMove s t :=
  forEach_keeps (P := fun u => ChipsMove s u) (fun i u v huv hu => chipsMove_trans hu (hf i u v huv)) l s t h
    (chipsMove_refl s s rfl)

theorem resetArgs_chip0 (r : Registry) (i : Fin 10) : i = 0 → (resetArgs r i).addr = chip0Base := by
  rintro rfl
  rfl

theorem chipResetAt_chipsMove (s : State) (i : Fin 10) (h : badRates s.registry = false) :
    ChipsMove s (chipResetAt s i) := by
  simp only [badRates, decide_eq_false_iff_not, not_or] at h
  exact chipsMove_one s _ i _ (.reset _ h.1 h.2 (resetArgs_chip0 _ _)) rfl

/-- Resetting chips leaves everything outside the chips alone. -/
theorem foldl_chipResetAt_registry (l : List (Fin 10)) (s : State) :
    (l.foldl chipResetAt s).registry = s.registry ∧ (l.foldl chipResetAt s).pcm = s.pcm
      ∧ (l.foldl chipResetAt s).traces = s.traces ∧ (l.foldl chipResetAt s).port = s.port
      ∧ (l.foldl chipResetAt s).responses = s.responses ∧ (l.foldl chipResetAt s).ramReads = s.ramReads := by
  induction l generalizing s with
  | nil => simp
  | cons i rest ih => exact ih (chipResetAt s i)

theorem foldl_chipResetAt_chipsMove (l : List (Fin 10)) (s : State) (h : badRates s.registry = false) :
    ChipsMove s (l.foldl chipResetAt s) := by
  induction l generalizing s with
  | nil => exact chipsMove_refl s _ rfl
  | cons i rest ih => exact chipsMove_trans (chipResetAt_chipsMove s i h) (ih (chipResetAt s i) h)

theorem setModelAt_chipsMove (bits : BitVec 10) (s : State) (i : Fin 10) : ChipsMove s (setModelAt bits s i) :=
  chipsMove_one s _ i _ (.modelSet _) rfl

theorem foldl_setModelAt_chipsMove (bits : BitVec 10) (l : List (Fin 10)) (s : State) :
    ChipsMove s (l.foldl (setModelAt bits) s) := by
  induction l generalizing s with
  | nil => exact chipsMove_refl s _ rfl
  | cons i rest ih => exact chipsMove_trans (setModelAt_chipsMove bits s i) (ih _)

/-- Giving chips a model leaves everything outside the chips alone. -/
theorem foldl_setModelAt_outside (bits : BitVec 10) (l : List (Fin 10)) (s : State) :
    (l.foldl (setModelAt bits) s).registry = s.registry ∧ (l.foldl (setModelAt bits) s).pcm = s.pcm
      ∧ (l.foldl (setModelAt bits) s).traces = s.traces ∧ (l.foldl (setModelAt bits) s).port = s.port
      ∧ (l.foldl (setModelAt bits) s).responses = s.responses
      ∧ (l.foldl (setModelAt bits) s).ramReads = s.ramReads := by
  induction l generalizing s with
  | nil => simp
  | cons i rest ih => exact ih (setModelAt bits s i)

/-! ### Every command -/

/-- Every command moves each chip by moves of `ChipMove`, and no other way. -/
theorem exec_chipsMove (i : Instr) (s t : State) (h : exec i s = .next t) : ChipsMove s t := by
  cases i with
  | writeFreqLo win v val => exact writeBus_chipsMove (fun i c hc => .freqLo _ v val hc) h
  | writeFreqHi win v val => exact writeBus_chipsMove (fun i c hc => .freqHi _ v val hc) h
  | writePwLo win v val => exact writeBus_chipsMove (fun i c hc => .pwLo _ v val hc) h
  | writePwHi win v val => exact writeBus_chipsMove (fun i c hc => .pwHi _ v val hc) h
  | writeWave win v val => exact writeBus_chipsMove (fun i c hc => .wave _ v val hc) h
  | writeAd win v val => exact writeBus_chipsMove (fun i c hc => .ad _ v val hc) h
  | writeSr win v val => exact writeBus_chipsMove (fun i c hc => .sr _ v val hc) h
  | writeFcLo win val => exact writeBus_chipsMove (fun i c hc => .fcLo _ val hc) h
  | writeFcHi win val => exact writeBus_chipsMove (fun i c hc => .fcHi _ val hc) h
  | writeResFilt win val => exact writeBus_chipsMove (fun i c hc => .resFilt _ val hc) h
  | writeModeVol win val => exact writeBus_chipsMove (fun i c hc => .modeVol _ val hc) h
  | writeUnmapped addr val => exact writeBus_chipsMove (fun i c hc => .unmapped _ val hc) h
  | readBus addr => exact readBusWith_chipsMove h
  | readOsc3 win => exact readBusWith_chipsMove h
  | readEnv3 win => exact readBusWith_chipsMove h
  | peekBus addr => exact readBusWith_chipsMove h
  | peekOsc3 win => exact readBusWith_chipsMove h
  | peekEnv3 win => exact readBusWith_chipsMove h
  | clockAll => exact forEach_chipsMove (fun _ _ _ => clockAt_chipsMove) h
  | synthAll traceEn offset => exact forEach_chipsMove (fun _ _ _ => synthAt_chipsMove) h
  | synthAllStripped offset => exact forEach_chipsMove (fun _ _ _ => synthStrippedAt_chipsMove) h
  | resetAll =>
    simp only [exec, execResetAll] at h
    split at h
    · simp at h
    · rename_i hr
      split at h
      · simp at h
      · simp only [Host.Outcome.next.injEq] at h
        subst h
        exact chipsMove_trans (foldl_chipResetAt_chipsMove _ s (by simpa using hr)) (chipsMove_refl _ _ rfl)
  | configSrate n => cases h; exact chipsMove_refl s _ rfl
  | configCrate n => cases h; exact chipsMove_refl s _ rfl
  | configFlags realFile compat extMulti extFilt => cases h; exact chipsMove_refl s _ rfl
  | configCount n => cases h; exact chipsMove_refl s _ rfl
  | configChip slot base m6581 ovr chan => cases h; exact chipsMove_refl s _ rfl
  | configReserved sel => cases h; exact chipsMove_refl s _ rfl
  | setModels bits => cases h; exact foldl_setModelAt_chipsMove bits _ s
  | digiCtrlResetCount c => exact digiCtrl_chipsMove (fun _ _ hc => .countReset hc) h
  | digiCtrlDisable c => exact digiCtrl_chipsMove (fun _ _ hc => .disabled hc) h
  | digiCtrlEnable c => exact digiCtrl_chipsMove (fun _ _ hc => .enabled hc) h
  | digiCtrlReset c => exact digiCtrl_chipsMove (fun _ _ hc => .detReset hc) h
  | digiQueryType c => exact digiQuery_chipsMove (f := fun d => digiTypeCode d.type) h
  | digiQueryRate c => exact digiQuery_chipsMove (f := digiRate) h
  | digiQueryDesc c => exact digiQuery_chipsMove (f := fun d => digiTypeCode d.type) h
  | digiQueryReserved c => exact digiQuery_chipsMove (f := fun _ => 0) h
  | clock c =>
    simp only [exec, execClock] at h
    split at h
    · cases h; exact chipsMove_refl s _ rfl
    · exact clockAt_chipsMove h
  | synth c scale clearFlag traceEn offset =>
    simp only [exec, execSynth] at h
    split at h
    · cases h; exact chipsMove_refl s _ rfl
    · exact synthAt_chipsMove h
  | synthStripped c scale clearFlag offset =>
    simp only [exec, execSynthStripped] at h
    split at h
    · cases h; exact chipsMove_refl s _ rfl
    · exact synthStrippedAt_chipsMove h
  | reset c =>
    simp only [exec, execReset] at h
    split at h
    · cases h; exact chipsMove_refl s _ rfl
    · split at h
      · simp at h
      · rename_i hr
        cases h
        exact chipResetAt_chipsMove s _ (by simpa using hr)
  | reserved op => cases h; exact chipsMove_refl s _ rfl

/-- A step is the waiting command run on the state without it, or nothing (60_exceptions.md R373). -/
theorem step_eq_next (s t : State) (h : step s = .next t) :
    (s.port = [] ∧ t = s) ∨ ∃ w rest, s.port = w :: rest ∧ exec (decode w) { s with port := rest } = .next t := by
  unfold step at h
  split at h
  · rename_i hp
    cases h
    exact .inl ⟨hp, rfl⟩
  · rename_i w rest hp
    exact .inr ⟨w, rest, hp, h⟩

/-- A property of a chip that every move keeps, every step keeps of every chip. -/
theorem step_keeps_chips {P : Fin 10 → Chip → Prop} (hP : ∀ i c d, ChipMove i c d → P i c → P i d) (s t : State)
    (h : step s = .next t) (hs : ∀ i, P i (s.chip i)) (i : Fin 10) : P i (t.chip i) := by
  rcases step_eq_next s t h with ⟨_, rfl⟩ | ⟨w, rest, _, hx⟩
  · exact hs i
  · exact chipsMove_keeps hP (exec_chipsMove _ _ _ hx) hs i

/-! ### The memories -/

theorem allMemories_of_eq {P : Memory → Prop} {s t : State} (hp : t.pcm = s.pcm) (ht : t.traces = s.traces)
    (hs : allMemories P s) : allMemories P t := by
  unfold allMemories
  rw [hp, ht]
  exact hs

theorem onBus_memories {a : Addr} {s t : State} {k : Fin 10 → Chip → Result}
    (hk : ∀ i c u, k i c = .next u → u.pcm = s.pcm ∧ u.traces = s.traces) (h : onBus a s k = .next t) :
    t.pcm = s.pcm ∧ t.traces = s.traces := by
  rw [onBus_eq_next] at h
  obtain ⟨i, _, h⟩ := h
  exact hk i _ t h

theorem writeBus_memories {a : Addr} {val : Byte} {poke : Chip → Chip} {s t : State}
    (h : writeBus a val poke s = .next t) : t.pcm = s.pcm ∧ t.traces = s.traces :=
  onBus_memories (fun _ _ u hu => by cases hu; exact ⟨rfl, rfl⟩) h

theorem readBusWith_memories {a : Addr} {f : Chip → Byte} {s t : State} (h : readBusWith a f s = .next t) :
    t.pcm = s.pcm ∧ t.traces = s.traces :=
  onBus_memories (fun _ _ u hu => by cases hu; exact ⟨rfl, rfl⟩) h

theorem digiCtrl_memories {c : BitVec 8} {f : Chip → Chip} {s t : State} (h : digiCtrl c s f = .next t) :
    t.pcm = s.pcm ∧ t.traces = s.traces := by
  simp only [digiCtrl, onChip_eq_next, Host.Outcome.next.injEq] at h
  rcases h with ⟨_, rfl⟩ | ⟨i, _, rfl⟩ <;> exact ⟨rfl, rfl⟩

theorem digiQuery_memories {c : BitVec 8} {f : Detector → BitVec 32} {s t : State} (h : digiQuery c s f = .next t) :
    t.pcm = s.pcm ∧ t.traces = s.traces := by
  simp only [digiQuery, onChip_eq_next, respond_eq_next] at h
  rcases h with ⟨_, rfl⟩ | ⟨i, _, rfl⟩ <;> exact ⟨rfl, rfl⟩

theorem clockAt_memories {i : Fin 10} {s t : State} (h : clockAt i s = .next t) :
    t.pcm = s.pcm ∧ t.traces = s.traces := by
  simp only [clockAt, onInitialised_eq_next, Host.Outcome.next.injEq] at h
  obtain ⟨_, rfl⟩ := h
  exact ⟨rfl, rfl⟩

/-- A property of a memory that the store of a clipped word keeps, every command keeps of every memory. -/
theorem exec_keeps_memories {P : Memory → Prop} (hP : ∀ i x m, P m → P (writeSample i (clip x) m)) (i : Instr)
    (s t : State) (h : exec i s = .next t) (hs : allMemories P s) : allMemories P t := by
  have same : t.pcm = s.pcm ∧ t.traces = s.traces → allMemories P t := fun e => allMemories_of_eq e.1 e.2 hs
  cases i with
  | synth c scale clearFlag traceEn offset =>
    simp only [exec, execSynth] at h
    split at h
    · cases h; exact hs
    · exact synthAt_keeps_memories hP _ _ _ _ _ s t h hs
  | synthStripped c scale clearFlag offset =>
    simp only [exec, execSynthStripped] at h
    split at h
    · cases h; exact hs
    · exact synthStrippedAt_keeps_memories hP _ _ _ _ s t h hs
  | synthAll traceEn offset =>
    exact forEach_keeps (fun i u v huv hu => synthAt_keeps_memories hP i _ _ _ offset u v huv hu) _ s t h hs
  | synthAllStripped offset =>
    exact forEach_keeps (fun i u v huv hu => synthStrippedAt_keeps_memories hP i _ _ offset u v huv hu) _ s t h hs
  | clockAll =>
    exact forEach_keeps (P := allMemories P)
      (fun i u v huv hu => allMemories_of_eq (clockAt_memories huv).1 (clockAt_memories huv).2 hu) _ s t h hs
  | clock c =>
    simp only [exec, execClock] at h
    split at h
    · cases h; exact hs
    · exact same (clockAt_memories h)
  | resetAll =>
    simp only [exec, execResetAll] at h
    split at h
    · simp at h
    · split at h
      · simp at h
      · cases h
        have e := foldl_chipResetAt_registry (chipsBelow (clampCount s.registry).val) s
        exact same ⟨e.2.1, e.2.2.1⟩
  | setModels bits =>
    cases h
    have e := foldl_setModelAt_outside bits (activeChips s) s
    exact same ⟨e.2.1, e.2.2.1⟩
  | reset c =>
    simp only [exec, execReset] at h
    split at h
    · cases h; exact hs
    · split at h
      · simp at h
      · cases h
        exact hs
  | digiCtrlResetCount c => exact same (digiCtrl_memories (f := resetCount) h)
  | digiCtrlDisable c => exact same (digiCtrl_memories (f := disableDetector) h)
  | digiCtrlEnable c => exact same (digiCtrl_memories (f := enableDetector) h)
  | digiCtrlReset c => exact same (digiCtrl_memories (f := detectorReset) h)
  | digiQueryType c => exact same (digiQuery_memories (f := fun d => digiTypeCode d.type) h)
  | digiQueryRate c => exact same (digiQuery_memories (f := digiRate) h)
  | digiQueryDesc c => exact same (digiQuery_memories (f := fun d => digiTypeCode d.type) h)
  | digiQueryReserved c => exact same (digiQuery_memories (f := fun _ => 0) h)
  | readBus addr => exact same (readBusWith_memories h)
  | readOsc3 win => exact same (readBusWith_memories h)
  | readEnv3 win => exact same (readBusWith_memories h)
  | peekBus addr => exact same (readBusWith_memories h)
  | peekOsc3 win => exact same (readBusWith_memories h)
  | peekEnv3 win => exact same (readBusWith_memories h)
  | writeFreqLo win v val => exact same (writeBus_memories h)
  | writeFreqHi win v val => exact same (writeBus_memories h)
  | writePwLo win v val => exact same (writeBus_memories h)
  | writePwHi win v val => exact same (writeBus_memories h)
  | writeWave win v val => exact same (writeBus_memories h)
  | writeAd win v val => exact same (writeBus_memories h)
  | writeSr win v val => exact same (writeBus_memories h)
  | writeFcLo win val => exact same (writeBus_memories h)
  | writeFcHi win val => exact same (writeBus_memories h)
  | writeResFilt win val => exact same (writeBus_memories h)
  | writeModeVol win val => exact same (writeBus_memories h)
  | writeUnmapped addr val => exact same (writeBus_memories h)
  | configSrate n => cases h; exact hs
  | configCrate n => cases h; exact hs
  | configFlags realFile compat extMulti extFilt => cases h; exact hs
  | configCount n => cases h; exact hs
  | configChip slot base m6581 ovr chan => cases h; exact hs
  | configReserved sel => cases h; exact hs
  | reserved op => cases h; exact hs

end Sys2Proof.Machine
end

