-- ==== Sys2Proof/Tests/Slice0.lean ====
section
/-! SUPPORT. Tests: an ill-formed term for each check of WellFormed; words written out from the tables of 30_encoding.md
and from the list of 95_test_vectors.md 3.1, decoded; one step on a small state with the result that 95_test_vectors.md
gives where it needs no open parameter; and for each obligation with hypotheses a state and operands that meet them. -/

namespace Sys2Proof.Tests

open Sys2Proof.Machine

/-! ### Well-formedness (30_encoding.md R105, R106, R110, R115) -/

theorem test_unmapped_write_of_a_filter_register_is_ill_formed : (Instr.writeUnmapped 0xD418 0).wellFormed = false := by
  decide
theorem test_unmapped_write_of_0x19_is_well_formed : (Instr.writeUnmapped 0xD419 0).wellFormed = true := by decide
theorem test_bus_read_of_osc3_is_ill_formed : (Instr.readBus 0xD41B).wellFormed = false := by decide
theorem test_bus_read_of_env3_is_ill_formed : (Instr.readBus 0xD41C).wellFormed = false := by decide
theorem test_bus_peek_of_osc3_is_ill_formed : (Instr.peekBus 0xD43B).wellFormed = false := by decide
theorem test_bus_peek_of_env3_is_ill_formed : (Instr.peekBus 0xD43C).wellFormed = false := by decide
theorem test_reserved_selector_of_a_register_is_ill_formed :
    (Instr.configReserved 0x03).wellFormed = false ∧ (Instr.configReserved 0x10).wellFormed = false
      ∧ (Instr.configReserved 0x19).wellFormed = false := by decide
theorem test_reserved_opcode_of_a_command_is_ill_formed :
    (Instr.reserved 0x01).wellFormed = false ∧ (Instr.reserved 0x0F).wellFormed = false := by decide

/-! ### Decoding: one word and more for each constructor, each written out as OP, SEL, ADDR, DATA -/

/-- `reg = 0, 7, 14` (R105). -/
theorem test_decode_freqLo :
    decode 0x0100_D400_0000_0004 = .writeFreqLo 0x6A0 .v0 0x04 ∧ decode 0x0100_D407_0000_00FF = .writeFreqLo 0x6A0 .v1 0xFF
      ∧ decode 0x0100_D40E_0000_0001 = .writeFreqLo 0x6A0 .v2 0x01 := by decide
/-- `reg = 1, 15` (R105). -/
theorem test_decode_freqHi :
    decode 0x0100_D401_0000_00FE = .writeFreqHi 0x6A0 .v0 0xFE ∧ decode 0x0100_D40F_0000_0012 = .writeFreqHi 0x6A0 .v2 0x12 :=
  by decide
/-- `reg = 2, 9` (R105). -/
theorem test_decode_pwLo :
    decode 0x0100_D402_0000_0055 = .writePwLo 0x6A0 .v0 0x55 ∧ decode 0x0100_D409_0000_0077 = .writePwLo 0x6A0 .v1 0x77 := by
  decide
/-- `reg = 3, 17` (R105). -/
theorem test_decode_pwHi :
    decode 0x0100_D403_0000_00F5 = .writePwHi 0x6A0 .v0 0xF5 ∧ decode 0x0100_D411_0000_0008 = .writePwHi 0x6A0 .v2 0x08 := by
  decide
/-- `reg = 4, 11`; 0xD7E4 is offset 4 of another window (R105, 20_memory.md R63). -/
theorem test_decode_wave :
    decode 0x0100_D40B_0000_0049 = .writeWave 0x6A0 .v1 0x49 ∧ decode 0x0100_D7E4_0000_0011 = .writeWave 0x6BF .v0 0x11 := by
  decide
/-- `reg = 5, 12` (R105). -/
theorem test_decode_ad :
    decode 0x0100_D405_0000_0009 = .writeAd 0x6A0 .v0 0x09 ∧ decode 0x0100_D40C_0000_0000 = .writeAd 0x6A0 .v1 0 := by decide
/-- `reg = 6, 20` (R105). -/
theorem test_decode_sr :
    decode 0x0100_D406_0000_00F0 = .writeSr 0x6A0 .v0 0xF0 ∧ decode 0x0100_D414_0000_00FF = .writeSr 0x6A0 .v2 0xFF := by
  decide
/-- `reg = 0x15` to `0x18`; EN33: `SEL` and `DATA[31:8]` are ignored. -/
theorem test_decode_filter_writes :
    decode 0x0100_D415_0000_0007 = .writeFcLo 0x6A0 0x07 ∧ decode 0x0100_D416_0000_00FF = .writeFcHi 0x6A0 0xFF
      ∧ decode 0x0100_D417_0000_00F3 = .writeResFilt 0x6A0 0xF3 ∧ decode 0x01AB_D418_FFFF_FF0F = .writeModeVol 0x6A0 0x0F := by
  decide
/-- `reg = 0x19, 0x1F` (R105). -/
theorem test_decode_unmapped_write :
    decode 0x0100_D419_0000_0031 = .writeUnmapped 0xD419 0x31 ∧ decode 0x0100_D41F_0000_0010 = .writeUnmapped 0xD41F 0x10 := by
  decide
/-- EN2, and `reg = 0x1A, 0x1C, 0x1D` (R106). -/
theorem test_decode_read :
    decode 0x0200_D41B_0000_0000 = .readOsc3 0x6A0 ∧ decode 0x0200_D41C_0000_0000 = .readEnv3 0x6A0
      ∧ decode 0x0200_D41A_0000_0000 = .readBus 0xD41A ∧ decode 0x0200_D41D_0000_0000 = .readBus 0xD41D := by decide
/-- EN3, and `reg = 0x1B, 0x00` (R106). -/
theorem test_decode_peek :
    decode 0x0300_D41C_0000_0000 = .peekEnv3 0x6A0 ∧ decode 0x0300_D41B_0000_0000 = .peekOsc3 0x6A0
      ∧ decode 0x0300_FFFF_0000_0000 = .peekBus 0xFFFF := by decide
/-- EN4, EN34, EN8. -/
theorem test_decode_all_commands :
    decode 0x0400_0000_0000_0000 = .clockAll ∧ decode 0x04AB_CDEF_1234_5678 = .clockAll
      ∧ decode 0x0700_0000_0000_0000 = .resetAll := by decide
/-- EN5, EN6, EN7. -/
theorem test_decode_synthAll :
    decode 0x0500_0200_0000_0007 = .synthAll true 7 ∧ decode 0x0500_0000_1234_5678 = .synthAll false 305419896
      ∧ decode 0x0600_0000_0000_0003 = .synthAllStripped 3 := by decide
/-- EN9, EN10, EN13. -/
theorem test_decode_config_rates_count :
    decode 0x0800_0000_0000_AC44 = .configSrate 44100 ∧ decode 0x0801_0000_000F_08A0 = .configCrate 985248
      ∧ decode 0x0803_0000_0000_0003 = .configCount 3 := by decide
/-- EN11, EN12: bit 0 `REALFILE`, bit 1 `COMPAT`, bit 2 `EXTMULTI`, bit 3 `EXTFILT`. -/
theorem test_decode_config_flags :
    decode 0x0802_0000_0000_000B = .configFlags true true false true
      ∧ decode 0x0802_0000_0000_0004 = .configFlags false false true false := by decide
/-- EN14, EN15, EN16. -/
theorem test_decode_config_chip :
    decode 0x0810_D400_0000_0001 = .configChip 0 0xD400 true 0 0
      ∧ decode 0x0811_D420_0000_0008 = .configChip 1 0xD420 false 0 1
      ∧ decode 0x0819_DE00_0000_000D = .configChip 9 0xDE00 true 2 1 := by decide
/-- EN35, EN36. -/
theorem test_decode_config_reserved :
    decode 0x0804_1234_0000_0063 = .configReserved 0x04 ∧ decode 0x081A_D500_0000_0001 = .configReserved 0x1A := by decide
/-- EN17: bits 0 and 2 of ten. -/
theorem test_decode_setModels : decode 0x0900_0000_0000_0005 = .setModels 5 := by decide
/-- EN18 to EN21. -/
theorem test_decode_digiCtrl :
    decode 0x0A00_0000_0000_0000 = .digiCtrlResetCount 0 ∧ decode 0x0A02_0000_0000_0001 = .digiCtrlDisable 2
      ∧ decode 0x0A00_0000_0000_0002 = .digiCtrlEnable 0 ∧ decode 0x0A01_0000_0000_0003 = .digiCtrlReset 1 := by decide
/-- EN22 to EN24, EN37, EN40. -/
theorem test_decode_digiQuery :
    decode 0x0B00_0000_0000_0000 = .digiQueryType 0 ∧ decode 0x0B00_0000_0000_0001 = .digiQueryRate 0
      ∧ decode 0x0B01_0000_0000_0002 = .digiQueryDesc 1 ∧ decode 0x0B00_0000_0000_0003 = .digiQueryReserved 0
      ∧ decode 0x0B00_0000_FFFF_FFFC = .digiQueryType 0 := by decide
/-- EN25, EN29. -/
theorem test_decode_clock_reset : decode 0x0C02_0000_0000_0000 = .clock 2 ∧ decode 0x0F03_0000_0000_0000 = .reset 3 := by
  decide
/-- EN26 to EN28, EN41. -/
theorem test_decode_synth :
    decode 0x0D00_01FF_0000_0000 = .synth 0 255 true false 0 ∧ decode 0x0D01_027F_0000_0064 = .synth 1 127 false true 100
      ∧ decode 0x0E00_0155_0000_0005 = .synthStripped 0 85 true 5
      ∧ decode 0x0D00_FDC8_0000_0002 = .synth 0 200 true false 2 := by decide
/-- EN30 to EN32. -/
theorem test_decode_reserved :
    decode 0x00FF_FFFF_FFFF_FFFF = .reserved 0x00 ∧ decode 0x1000_D418_0000_000F = .reserved 0x10
      ∧ decode 0xFF00_0000_0000_0000 = .reserved 0xFF := by decide
/-- R100 gives a command one length. -/
theorem test_decode_refuses_long_words : decodeTableWord 65 0 = none ∧ decodeTableWord 64 0x04 = some (.reserved 0) := by
  decide

/-! ### Small states -/

/-- The registry that the words of the boot prologue of 95_test_vectors.md 1.3 leave, before RESETALL. -/
def bootRegistry : Registry :=
  { powerOnRegistry with
    cfgSrate := 44100, cfgCrate := 985248, cfgRealFile := true, cfgCompat := true
    slots := powerOnRegistry.slots.set 0 ⟨0xD400, true, 0, 0⟩ }

/-- `n` chips, the extra ones at 0xD420, 0xD440 and so on. -/
def severalRegistry (n : BitVec 4) : Registry :=
  { bootRegistry with
    cfgCount := n, cfgExtMulti := true
    slots := Vector.ofFn fun i => ⟨0xD400 + BitVec.ofNat 16 (32 * i.val), false, 0, 0⟩ }

def configured (r : Registry) : State := { State.reset with registry := r }

/-- The machine after the boot prologue: one 6581 chip, a real file. -/
def boot : State := resetAllState (configured bootRegistry) 1

/-- Ten chips in use. -/
def ten : State := resetAllState (configured (severalRegistry 10)) 10

/-- What `f` sees of a next state. -/
def seen {α : Type} (f : State → α) (r : Result) : Option α :=
  match r with
  | .next t => some (f t)
  | .fault _ | .refused _ => none

/-- Why a command was refused. -/
def refusal (r : Result) : Option Refusal :=
  match r with
  | .refused e => some e
  | .next _ | .fault _ => none

/-- `s` with chip 0 changed. -/
def chip0 (f : Chip → Chip) (s : State) : State := s.setChip 0 (f (s.chip 0))

/-! ### One step of each command -/

/-- RESETALL of the configured machine is `boot` (95_test_vectors.md 1.3). -/
theorem test_resetAll_boots :
    seen (fun t => ((t.chip 0).life, (t.chip 0).vol, (t.chip 1).life)) (exec .resetAll (configured bootRegistry))
      = some (Life.reset, 15, Life.uninit)
    ∧ seen (fun t => (t.registry.nUsed, t.registry.lut)) (exec .resetAll (configured bootRegistry))
      = some (boot.registry.nUsed, boot.registry.lut) := by decide
/-- A count of 10 in the legacy layout is 3 (95_test_vectors.md S7). -/
theorem test_resetAll_clamps :
    seen (fun t => t.registry.nUsed) (exec .resetAll (configured { severalRegistry 10 with cfgExtMulti := false }))
      = some 3 := by decide
/-- A base that is no multiple of 32 (45_registry.md R339). -/
theorem test_resetAll_refuses_a_bad_base :
    refusal (exec .resetAll (configured { severalRegistry 2 with
      slots := (severalRegistry 2).slots.set 1 ⟨0xD421, false, 0, 0⟩ })) = some .badBase := by decide
/-- RESET at a zero rate (45_registry.md R338). -/
theorem test_reset_refuses_zero_rate : refusal (exec (.reset 0) State.reset) = some .badRate := by decide
/-- RESET works on a chip that no count includes (45_registry.md R337). -/
theorem test_reset_of_an_extra_chip :
    seen (fun t => ((t.chip 9).life, (t.chip 9).base)) (exec (.reset 9) (configured (severalRegistry 1)))
      = some (Life.reset, 0xD520) := by decide
/-- RA2: `REG[15] = 0x12`, `getFreq(2) = 0x1200`. -/
theorem test_freqHi : seen (fun t => getFreq (t.chip 0) .v2) (exec (.writeFreqHi 0x6A0 .v2 0x12) boot) = some 0x1200 := by
  decide
/-- RA2: `getFreq(0) = 0x0004`. -/
theorem test_freqLo : seen (fun t => getFreq (t.chip 0) .v0) (exec (.writeFreqLo 0x6A0 .v0 0x04) boot) = some 0x0004 := by
  decide
/-- RA3: `PW[0] = (PrepA, 0, 0x55)`. -/
theorem test_pwLo :
    seen (fun t => (getPulse (t.chip 0) .v0, (t.chip 0).det.pw.v0)) (exec (.writePwLo 0x6A0 .v0 0x55) boot)
      = some (0x055, ⟨.prepA, 0, 0x55⟩) := by decide
/-- RA3: the register keeps 0xF5, the pulse width takes the low nibble. -/
theorem test_pwHi :
    seen (fun t => (getPulse (t.chip 0) .v0, (t.chip 0).regs.v0.pwHi)) (exec (.writePwHi 0x6A0 .v0 0xF5) boot)
      = some (0x500, 0xF5) := by decide
/-- RA9: a mirror of chip 0, `FM[0] = (Prep, 0, 0)`. -/
theorem test_wave :
    seen (fun t => (getWave (t.chip 0) .v0, (t.chip 0).det.fm.v0)) (exec (.writeWave 0x6BF .v0 0x11) boot)
      = some (0x11, ⟨.prep, 0, 0⟩) := by decide
/-- RA12: the second 0x49 finds `PrepB` and restarts it. -/
theorem test_wave_pwm_prepB :
    seen (fun t => (t.chip 0).det.pw.v0)
      (andThen (exec (.writeWave 0x6A0 .v0 0x49) boot) (exec (.writeWave 0x6A0 .v0 0x49))) = some ⟨.prepB, 0, 0⟩ := by
  decide
theorem test_ad : seen (fun t => getAD (t.chip 0) .v1) (exec (.writeAd 0x6A0 .v1 0x09) boot) = some 0x09 := by decide
theorem test_sr : seen (fun t => getSR (t.chip 0) .v2) (exec (.writeSr 0x6A0 .v2 0xF0) boot) = some 0xF0 := by decide
/-- RA4: bits 7 to 3 of offset 0x15 are ignored. -/
theorem test_fcLo :
    seen (fun t => (t.chip 0).filter.cutoff)
      (andThen (exec (.writeFcHi 0x6A0 0x00) boot) (exec (.writeFcLo 0x6A0 0xFF))) = some 0x007 := by decide
/-- RA4: 0x7F8. -/
theorem test_fcHi : seen (fun t => (t.chip 0).filter.cutoff) (exec (.writeFcHi 0x6A0 0xFF) boot) = some 0x7F8 := by decide
/-- RA5: `RES = 15`, `FILT = (1, 1, 0)`. -/
theorem test_resFilt :
    seen (fun t => ((t.chip 0).filter.res, (t.chip 0).filter.filt)) (exec (.writeResFilt 0x6A0 0xF3) boot)
      = some (15, ⟨true, true, false⟩) := by decide
/-- RA1 and DD15: the sample 0xAA of the byte 0x0A. -/
theorem test_modeVol_sample :
    seen (fun t => ((t.chip 0).vol, (t.chip 0).det.type, (t.chip 0).det.sample, (t.chip 0).det.count))
      (exec (.writeModeVol 0x6A0 0x0A) boot) = some (10, .d418, 0xAA, 1) := by decide
/-- RA6: the flush, and `EXT_Y` kept. -/
theorem test_modeVol_flush :
    seen (fun t => ((t.chip 0).filter.fh, (t.chip 0).filter.extY, (t.chip 0).filter.v3off, (t.chip 0).filter.lp))
      (exec (.writeModeVol 0x6A0 0x8F)
        (chip0 (fun c => { c with filter := { c.filter with lp := true, fh := ⟨500, 0, 0⟩, extY := 77 } }) boot))
      = some (⟨0, 0, 0⟩, 77, true, false) := by decide
/-- RA8: `BUS` and `LIFE` only. -/
theorem test_unmapped_write :
    seen (fun t => ((t.chip 0).bus, (t.chip 0).life, (t.chip 0).vol)) (exec (.writeUnmapped 0xD419 0x31) boot)
      = some (0x31, Life.active, 15) := by decide
/-- RA13. -/
theorem test_write_outside_is_refused :
    refusal (exec (.writeFreqLo 0x6C0 .v0 1) boot) = some .unmappedAddress
      ∧ refusal (exec (.writeUnmapped 0xCFFF 1) boot) = some .unmappedAddress := by decide
/-- RA10: on a fresh boot the latch reads 0, and `LIFE` stays. -/
theorem test_readBus :
    seen (fun t => (t.responses, (t.chip 0).life)) (exec (.readBus 0xD418) boot) = some ([0], Life.reset) := by decide
/-- RA13. -/
theorem test_peekBus_refused : refusal (exec (.peekBus 0xFFFF) boot) = some .unmappedAddress := by decide
/-- S5: `PEEK $D416` returns 0xC3. -/
theorem test_peekBus :
    seen (fun t => t.responses) (andThen (exec (.writeFcHi 0x6A0 0xC3) boot) (exec (.peekBus 0xD416))) = some [0xC3] := by
  decide
/-- RA11: the live reads answer one word and leave the latch. -/
theorem test_live_reads_answer :
    seen (fun t => (t.responses.length, (t.chip 0).bus)) (exec (.readOsc3 0x6A0) boot) = some (1, 0)
      ∧ seen (fun t => (t.responses.length, (t.chip 0).bus)) (exec (.readEnv3 0x6A0) boot) = some (1, 0)
      ∧ seen (fun t => (t.responses.length, (t.chip 0).bus)) (exec (.peekOsc3 0x6A0) boot) = some (1, 0)
      ∧ seen (fun t => (t.responses.length, (t.chip 0).bus)) (exec (.peekEnv3 0x6A0) boot) = some (1, 0) := by decide
/-- CK5: the counter wraps. -/
theorem test_clock_wraps :
    seen (fun t => (t.chip 0).cyc) (exec (.clock 0) (chip0 (fun c => { c with cyc := 0xFFFFFFFF }) boot)) = some 0 := by
  decide
/-- CK3. -/
theorem test_clock_refused_and_absent :
    refusal (exec (.clock 9) boot) = some .uninitialisedChip
      ∧ seen (fun t => (t.chip 0).cyc) (exec (.clock 10) boot) = some 0 := by decide
/-- CK2 and CK4: each chip counts; with no chip in use nothing happens. -/
theorem test_clockAll :
    seen (fun t => ((t.chip 0).cyc, (t.chip 9).cyc)) (exec .clockAll ten) = some (1, 1)
      ∧ seen (fun t => (t.chip 0).cyc) (exec .clockAll State.reset) = some 0 := by decide
/-- A render command makes the chip active; the word index is `2 × offset + CHAN` (44_render.md R302). -/
theorem test_synth_life : seen (fun t => (t.chip 0).life) (exec (.synth 0 255 true false 0) boot) = some Life.active := by
  decide
theorem test_synthStripped_life :
    seen (fun t => ((t.chip 0).life, t.ramReads)) (exec (.synthStripped 0 255 true 0) boot) = some (Life.active, 0) := by
  decide
theorem test_synthAll_life :
    seen (fun t => ((t.chip 0).life, (t.chip 9).life)) (exec (.synthAll true 0) ten) = some (Life.active, Life.active) := by
  decide
theorem test_synthAllStripped_life :
    seen (fun t => ((t.chip 0).life, (t.chip 9).life)) (exec (.synthAllStripped 0) ten) = some (Life.active, Life.active) := by
  decide
/-- 45_registry.md R332 to R335; the count is stored as it is. -/
theorem test_config_rates_flags_count :
    seen (fun t => t.registry.cfgSrate) (exec (.configSrate 44100) State.reset) = some 44100
      ∧ seen (fun t => t.registry.cfgCrate) (exec (.configCrate 985248) State.reset) = some 985248
      ∧ seen (fun t => (t.registry.cfgRealFile, t.registry.cfgCompat, t.registry.cfgExtMulti, t.registry.extEn))
          (exec (.configFlags true true false false) State.reset) = some (true, true, false, false)
      ∧ seen (fun t => t.registry.cfgCount) (exec (.configCount 15) State.reset) = some 15 := by decide
/-- Slot 0 ignores the address (45_registry.md R336). -/
theorem test_config_chip :
    seen (fun t => t.registry.slots[(0 : Fin 10)]) (exec (.configChip 0 0xD500 true 1 1) State.reset)
      = some ⟨0xD400, true, 1, 1⟩
    ∧ seen (fun t => t.registry.slots[(9 : Fin 10)]) (exec (.configChip 9 0xDE00 true 2 1) State.reset)
      = some ⟨0xDE00, true, 2, 1⟩ := by decide
/-- EN36, EN30 to EN32. -/
theorem test_reserved_do_nothing :
    exec (.configReserved 0x1A) boot = .next boot ∧ exec (.reserved 0xFF) boot = .next boot := ⟨rfl, rfl⟩
/-- Bit `i` is chip `i`: 95_test_vectors.md P4, command 19. -/
theorem test_setModels :
    seen (fun t => ((t.chip 0).model, (t.chip 1).model, (t.chip 9).model)) (exec (.setModels 2) ten)
      = some (.mos8580, .mos6581, .mos8580) := by decide
/-- A chip that captured FM on voice 0, its window holding one sample (DD17). -/
def fmHeld : State :=
  chip0 (fun c => { c with
    mute := ⟨true, false, false⟩
    det := { c.det with
      type := .fm, src := .voice .v0, sample := 0x66, count := 1, muted := ⟨true, false, false⟩ } }) boot
/-- DD17: the first RESETCOUNT keeps the technique. -/
theorem test_resetCount_keeps :
    seen (fun t => ((t.chip 0).det.type, (t.chip 0).det.count, (t.chip 0).mute)) (exec (.digiCtrlResetCount 0) fmHeld)
      = some (.fm, 0, ⟨true, false, false⟩) := by decide
/-- DD17: the second ends it. -/
theorem test_resetCount_ends :
    seen (fun t => ((t.chip 0).det.type, (t.chip 0).det.src, (t.chip 0).mute, (t.chip 0).det.sample))
      (andThen (exec (.digiCtrlResetCount 0) fmHeld) (exec (.digiCtrlResetCount 0)))
      = some (.none, .unused, ⟨false, false, false⟩, 0x66) := by decide
/-- DD19: DISABLE keeps the sample. -/
theorem test_disable :
    seen (fun t => ((t.chip 0).det.en, (t.chip 0).det.type, (t.chip 0).det.sample, (t.chip 0).mute))
      (exec (.digiCtrlDisable 0) fmHeld) = some (false, .none, 0x66, ⟨false, false, false⟩) := by decide
theorem test_enable :
    seen (fun t => ((t.chip 0).det.en, (t.chip 0).life))
      (andThen (exec (.digiCtrlDisable 0) boot) (exec (.digiCtrlEnable 0))) = some (true, Life.reset) := by decide
/-- DD20. -/
theorem test_detector_reset :
    seen (fun t => ((t.chip 0).det.type, (t.chip 0).det.sample, (t.chip 0).det.count, (t.chip 0).mute))
      (exec (.digiCtrlReset 0) fmHeld) = some (.none, 0x80, 0, ⟨false, false, false⟩) := by decide
/-- The codes of 30_encoding.md R113; EN38: an index of no chip answers 0. -/
theorem test_digiQuery :
    seen (fun t => t.responses) (exec (.digiQueryType 0) fmHeld) = some [1]
      ∧ seen (fun t => t.responses) (exec (.digiQueryDesc 0) fmHeld) = some [1]
      ∧ seen (fun t => t.responses) (exec (.digiQueryReserved 0) fmHeld) = some [0]
      ∧ seen (fun t => t.responses) (exec (.digiQueryType 10) boot) = some [0] := by decide
/-- No rate without a technique (43_digi_detector.md R277). -/
theorem test_digiQuery_rate : seen (fun t => t.responses) (exec (.digiQueryRate 0) boot) = some [0] := by decide
/-- The clip of 95_test_vectors.md S6. -/
theorem test_clip : clip 32768 = 32767 ∧ clip (-32768) = -32767 ∧ clip (-49152) = -32767 ∧ clip 32767 = 32767 := by decide
/-- FL3. -/
theorem test_route_disconnected_voice :
    routeSignal { powerOnChip.filter with v3off := true } 40 ⟨0, 30⟩ .v2 = ⟨0, 30⟩
      ∧ routeSignal { powerOnChip.filter with v3off := true, filt := ⟨false, false, true⟩ } 40 ⟨0, 30⟩ .v2 = ⟨40, 30⟩ := by
  decide
/-- A 16-bit word is stored low byte first and reads back signed (20_memory.md R67). -/
theorem test_words : writeSample 3 (-2) [] = [(6, 0xFE), (7, 0xFF)] ∧ readSample [(6, 0xFE), (7, 0xFF)] 3 = -2 := by decide

/-! ### For each obligation with hypotheses, a state and operands that meet them

Where a clause is about an open constant of Config, such as a timeout, a coefficient or `DIGI_MIN_COUNT`, the constant is
what it is, and the condition stands on both sides of an if or of two clauses; the witness of such a clause has the
condition on the constant as its hypothesis. -/

theorem witness_StepRunsDecodedCommand :
    ({ boot with port := [0x0100_D418_0000_000F] } : State).port = 0x0100_D418_0000_000F :: []
      ∧ decode 0x0100_D418_0000_000F = .writeModeVol 0x6A0 0x0F ∧ (Instr.writeModeVol 0x6A0 0x0F).wellFormed = true
      ∧ boot.port = [] := by decide
theorem witness_PlacedCommandRunsNext : (Instr.reserved 0x10).wellFormed = true ∧ (Instr.readBus 0xD41D).wellFormed = true :=
  by decide
theorem witness_DecodeEncodeRoundTrip :
    (Instr.writeUnmapped 0xD419 0xFF).wellFormed = true ∧ (Instr.configReserved 0xFF).wellFormed = true := by decide
/-- One word for each premise: the reserved opcodes and CONFIG selectors at the ends of their ranges, and the others. -/
theorem witness_EveryWordDecodesWellFormed :
    (opOf 0x0012_3456_789A_BCDE).toNat = 0 ∧ (opOf 0x1000_0000_0000_0000).toNat = 0x10
      ∧ ([0x01, 0x02, 0x03, 0x05, 0x06, 0x08, 0x09, 0x0A, 0x0B, 0x0C, 0x0D, 0x0E, 0x0F] : List (BitVec 8)).all
          (fun op => opOf (commandWord op 0xFF 0xFFFF 0xFFFF_FFFF) == op) = true
      ∧ ([0x00, 0x01, 0x02, 0x03, 0x04, 0x0F, 0x10, 0x19, 0x1A] : List (BitVec 8)).all
          (fun sel => selOf (commandWord 0x08 sel 0xFFFF 0xFFFF_FFFF) == sel) = true := by decide
theorem witness_UnusedFieldsAreIgnored :
    (0x000000FF : BitVec 32).extractLsb' 0 8 = (0xABCDEFFF : BitVec 32).extractLsb' 0 8
      ∧ (0x0200 : Addr).getLsbD 9 = (0xFFFF : Addr).getLsbD 9
      ∧ (0x000003FF : BitVec 32).extractLsb' 0 10 = (0xFFFFFFFF : BitVec 32).extractLsb' 0 10
      ∧ (0x00000003 : BitVec 32).extractLsb' 0 2 = (0xFFFFFFFF : BitVec 32).extractLsb' 0 2
      ∧ (0x03FF : Addr).extractLsb' 0 10 = (0xFFFF : Addr).extractLsb' 0 10
      ∧ (0x01FF : Addr).extractLsb' 0 9 = (0xFFFF : Addr).extractLsb' 0 9
      ∧ (0x0000000F : BitVec 32).extractLsb' 0 4 = (0xFFFFFFFF : BitVec 32).extractLsb' 0 4
      ∧ (0x10 : BitVec 8).toNat = 0x10 ∧ (0x19 : BitVec 8).toNat = 0x19 ∧ (0x04 : BitVec 8).toNat = 0x04
      ∧ (0x0F : BitVec 8).toNat = 0x0F ∧ (0x1A : BitVec 8).toNat = 0x1A ∧ (0x00 : BitVec 8).toNat = 0 := by decide
theorem witness_ReservedEncodingsDoNothing : 10 ≤ (10 : BitVec 8).toNat ∧ 10 ≤ (255 : BitVec 8).toNat := by decide
theorem witness_UnwatchedVoiceWrites :
    boot.reaches (busAddr 0x6A0 (voiceReg .v0 0)) 0 ∧ boot.reaches (busAddr 0x6A0 (voiceReg .v1 5)) 0
      ∧ boot.reaches (busAddr 0x6BF (voiceReg .v2 6)) 0 := by unfold State.reaches; decide
theorem witness_FreqHiWrite :
    boot.reaches (busAddr 0x6A0 (voiceReg .v0 1)) 0 ∧ ten.reaches (busAddr 0x6A9 (voiceReg .v2 1)) 9 := by
  unfold State.reaches; decide
theorem witness_PwLoWrite : boot.reaches (busAddr 0x6A0 (voiceReg .v1 2)) 0 := by unfold State.reaches; decide
theorem witness_PwHiWrite : boot.reaches (busAddr 0x6A0 (voiceReg .v2 3)) 0 := by unfold State.reaches; decide
theorem witness_WaveWrite : boot.reaches (busAddr 0x6A0 (voiceReg .v0 4)) 0 := by unfold State.reaches; decide
theorem witness_CutoffAndRoutingWrites :
    boot.reaches (busAddr 0x6A0 0x15) 0 ∧ boot.reaches (busAddr 0x6A0 0x16) 0 ∧ boot.reaches (busAddr 0x6A0 0x17) 0 := by
  unfold State.reaches; decide
theorem witness_ModeVolWrite : boot.reaches (busAddr 0x6A0 0x18) 0 := by unfold State.reaches; decide
theorem witness_UnmappedWrite :
    (Instr.writeUnmapped 0xD419 0).wellFormed = true ∧ boot.reaches 0xD419 0
      ∧ (Instr.writeUnmapped 0xD7FF 0).wellFormed = true ∧ boot.reaches 0xD7FF 0 := by unfold State.reaches; decide
theorem witness_ReadAnswersBusLatch :
    (Instr.readBus 0xD41A).wellFormed = true ∧ boot.reaches 0xD41A 0 ∧ (Instr.readBus 0xD41D).wellFormed = true
      ∧ boot.reaches 0xD41D 0 ∧ boot.reaches (busAddr 0x6A0 0x15) 0 ∧ boot.reaches (busAddr 0x6A0 0x16) 0
      ∧ boot.reaches (busAddr 0x6A0 (voiceReg .v0 0)) 0 := by
  unfold State.reaches; decide
theorem witness_ReadAnswersBusLatch_reset :
    chipIndex 0 = some 0
      ∧ exec (.reset 0) (configured bootRegistry) = .next (chipResetAt (configured bootRegistry) 0) := ⟨by decide, rfl⟩
theorem witness_LiveReadsAndPeeks :
    boot.reaches (busAddr 0x6A0 0x1B) 0 ∧ boot.reaches (busAddr 0x6A0 0x1C) 0 ∧ (Instr.peekBus 0xD400).wellFormed = true
      ∧ boot.reaches 0xD400 0 := by unfold State.reaches; decide
theorem witness_ClockAdvancesOneCycle : boot.selects 0 0 ∧ ten.selects 9 9 := by unfold State.selects; decide
theorem witness_ClockAllClocksEveryChip :
    ten.activeInitialised = true ∧ ([9, 8, 7, 6, 5, 4, 3, 2, 1, 0] : List (Fin 10)).Perm (activeChips ten)
      ∧ (9 : Fin 10).val < ten.registry.nUsed.val ∧ (0 : Fin 10).val < ten.registry.nUsed.val
      ∧ (ten.chip 9).cyc = (ten.chip 0).cyc := by decide
theorem witness_ClockAllClocksEveryChip_none :
    State.reset.activeInitialised = true ∧ State.reset.registry.nUsed = 0
      ∧ boot.activeInitialised = true ∧ boot.registry.nUsed.val ≤ (1 : Fin 10).val := by decide
theorem witness_SynthStoresOneSample :
    boot.selects 0 0 ∧ Memory.wf boot.pcm = true ∧ Memory.wf (boot.traces.voice.get .v2) = true
      ∧ Memory.wf boot.traces.digi = true := by unfold State.selects; decide
/-- For the trace words: a muted voice; a routed voice with a mode on; and neither. -/
theorem witness_SynthStoresOneSample_traces :
    (fmHeld.chip 0).mute.get .v0 = true ∧ (fmHeld.chip 0).mute.get .v1 = false
      ∧ ({ powerOnChip.filter with filt := ⟨false, true, false⟩, lp := true } : Filter).filt.get .v1 = true
      ∧ (fmHeld.chip 0).filter.filt.get .v1 = false := by decide
theorem witness_SampleIsTheSumOfTheVoices :
    modesOff (boot.chip 0).filter = true ∧ digiOff (boot.chip 0).det = true ∧ psidRuns (boot.chip 0) = false := by decide
theorem witness_StrippedSkipsDigiAndTraces :
    boot.selects 0 0 ∧ Memory.wf boot.pcm = true ∧ digiOff (boot.chip 0).det = true ∧ psidRuns (boot.chip 0) = false
      ∧ fmHeld.selects 0 0 ∧ digiOff (fmHeld.chip 0).det = false := by
  unfold State.selects; decide
theorem witness_SynthAllRendersEveryChip :
    ten.activeInitialised = true ∧ boot.activeInitialised = true ∧ boot.registry.nUsed = 1
      ∧ boot.registry.nUsed.val ≤ (1 : Fin 10).val := by decide
theorem witness_SynthAllStrippedRendersEveryChip :
    ten.activeInitialised = true ∧ boot.activeInitialised = true ∧ boot.registry.nUsed.val ≤ (1 : Fin 10).val := by decide
theorem witness_ConfigWritesItsRegister : (1 : Fin 10) ≠ 0 ∧ (8 : Fin 10) ≠ 9 := by decide
theorem witness_ResetGivesEveryFieldAValue :
    chipIndex 0 = some 0 ∧ chipIndex 9 = some 9 ∧ State.reset.registry.cfgSrate = 0
      ∧ (configured bootRegistry).registry.cfgSrate ≠ 0 ∧ (configured bootRegistry).registry.cfgCrate ≠ 0 := by decide
/-- A rate of 0; a legal configuration; and for slot 1 of two each kind of bad base at its boundary. -/
theorem witness_ResetAllRefusals :
    State.reset.registry.cfgSrate = 0
      ∧ (¬ ((configured bootRegistry).registry.cfgSrate = 0 ∨ (configured bootRegistry).registry.cfgCrate = 0)
        ∧ (configured bootRegistry).resetAllLegal = true)
      ∧ (configured (severalRegistry 10)).resetAllLegal = true
      ∧ ([0xCFE0, 0xE000, 0xD41F, 0xD800, 0xDDE0, 0xD400] : List Addr).all (fun b =>
          slotRefused { severalRegistry 2 with slots := (severalRegistry 2).slots.set 1 ⟨b, false, 0, 0⟩ } 1) = true
      ∧ slotRefused { severalRegistry 3 with slots := (severalRegistry 3).slots.set 2 ⟨0xD420, false, 0, 0⟩ } 2 = true := by
  decide
theorem witness_ResetAllRebuildsTheBus :
    (configured (severalRegistry 2)).resetAllLegal = true
      ∧ (((severalRegistry 2).slots[(1 : Fin 10)]).addr.toNat ≤ (0xD420 : Addr).toNat
        ∧ (0xD43F : Addr).toNat < ((severalRegistry 2).slots[(1 : Fin 10)]).addr.toNat + 32)
      ∧ (0xD41F : Addr).toNat < ((severalRegistry 2).slots[(1 : Fin 10)]).addr.toNat
      ∧ ((severalRegistry 2).slots[(1 : Fin 10)]).addr.toNat + 32 ≤ (0xD440 : Addr).toNat := by decide
theorem witness_SetModelsReplacesTheModel :
    (9 : Fin 10).val < ten.registry.nUsed.val ∧ boot.registry.nUsed.val ≤ (1 : Fin 10).val := by decide
theorem witness_ResetCountClosesTheWindow : fmHeld.selects 0 0 := by unfold State.selects; decide
theorem witness_DetectorLifecycle : fmHeld.selects 0 0 ∧ ten.selects 9 9 := by unfold State.selects; decide
theorem witness_DigiQueriesAnswer : boot.selects 0 0 ∧ (boot.chip 0).det.type = .none := by unfold State.selects; decide
theorem witness_DigiQueriesAnswer_rate (h : Config.digiMinCount ≤ 1) :
    fmHeld.selects 0 0 ∧ ¬ ((fmHeld.chip 0).det.type = .none ∨ (fmHeld.chip 0).det.count.toNat < Config.digiMinCount) := by
  have h1 : (fmHeld.chip 0).det.type ≠ .none := by decide
  have h2 : (fmHeld.chip 0).det.count.toNat = 1 := by decide
  exact ⟨by unfold State.selects; decide, fun e => e.elim h1 (by rw [h2]; omega)⟩
theorem witness_RestoreMutes :
    ((fmHeld.chip 0).det.type ≠ .d418 ∨ (fmHeld.chip 0).det.src ≠ .volume)
      ∧ (resetCount (fmHeld.chip 0)).det.count = 0 ∧ (resetCount (fmHeld.chip 0)).det.type ≠ .none
      ∧ (fmHeld.chip 0).mutesFollowSource := by unfold Chip.mutesFollowSource; decide
theorem witness_FmSequenceCaptures :
    boot.reaches (busAddr 0x6A0 (voiceReg .v0 4)) 0 ∧ boot.reaches (busAddr 0x6A0 (voiceReg .v0 1)) 0
      ∧ chipIndex 0 = some 0 ∧ (boot.chip 0).det.en = true ∧ 0 < 2 ^ 32 ∧ 2 ^ 32 - 1 < 2 ^ 32 := by
  unfold State.reaches; decide
theorem witness_PwmTestSequenceCaptures :
    boot.reaches (busAddr 0x6A0 (voiceReg .v2 2)) 0 ∧ boot.reaches (busAddr 0x6A0 (voiceReg .v2 4)) 0
      ∧ chipIndex 0 = some 0 ∧ (boot.chip 0).det.en = true ∧ ((boot.chip 0).det.pw.get .v2).phase ≠ .prepA
      ∧ ((boot.chip 0).det.pw.get .v2).phase ≠ .prepB ∧ 0 < 2 ^ 32
      ∧ ¬ (getAD (boot.chip 0) .v2 = 0x00 ∧ getSR (boot.chip 0) .v2 = 0xF0) := by unfold State.reaches; decide
/-- A chip with scheme 1 armed on voice 1, in and out of the envelope condition. -/
def armed (sr : Byte) : State :=
  chip0 (fun c => { c with
    regs := c.regs.set .v1 { zeroRegs with sr := sr }, det := { c.det with sw := c.det.sw.set .v1 (some .k1) } }) boot
theorem witness_SwallowArmsAndCaptures :
    (armed 0xF0).reaches (busAddr 0x6A0 (voiceReg .v1 4)) 0 ∧ ((armed 0xF0).chip 0).det.en = true
      ∧ (((armed 0xF0).chip 0).det.fm.get .v1).phase ≠ .variant2
      ∧ (((armed 0xF0).chip 0).det.pw.get .v1).phase ≠ .confirmA
      ∧ (((armed 0xF0).chip 0).det.pw.get .v1).phase ≠ .confirmB
      ∧ (armed 0xF0).reaches (busAddr 0x6A0 (voiceReg .v1 3)) 0
      ∧ (armed 0xF0).reaches (busAddr 0x6A0 (voiceReg .v1 2)) 0 ∧ (boot.chip 0).det.sw.get .v1 = none
      ∧ ((armed 0xF0).chip 0).det.sw.get .v1 = some .k1
      ∧ (getAD ((armed 0xF0).chip 0) .v1 = 0x00 ∧ getSR ((armed 0xF0).chip 0) .v1 = 0xF0)
      ∧ ¬ (getAD ((armed 0xF1).chip 0) .v1 = 0x00 ∧ getSR ((armed 0xF1).chip 0) .v1 = 0xF0)
      ∧ ((armed 0xF1).chip 0).det.sw.get .v1 = some .k1 := by unfold State.reaches; decide
/-- The armed chip with FM and PWM-test of voice 1 at the step before their last, stamped `gap` cycles ago. -/
def armedLast (gap : BitVec 32) : State :=
  chip0 (fun c => { c with
    det := { c.det with
      fm := c.det.fm.set .v1 ⟨.variant2, c.cyc - gap, 0x66⟩, pw := c.det.pw.set .v1 ⟨.confirmA, c.cyc - gap, 0x55⟩ } })
    (armed 0xF0)
/-- In time, the last step's byte is consumed, by FM or by PWM-test; another byte is not. -/
theorem witness_SwallowArmsAndCaptures_consumed (h : 0 < Config.fmTimeout ∧ 0 < Config.pwmTimeout) :
    (armedLast 0).reaches (busAddr 0x6A0 (voiceReg .v1 4)) 0
      ∧ (((armedLast 0).chip 0).det.fm.get .v1).phase = .variant2
      ∧ within ((armedLast 0).chip 0).cyc (((armedLast 0).chip 0).det.fm.get .v1).ts Config.fmTimeout = true
      ∧ (((armedLast 0).chip 0).det.pw.get .v1).phase = .confirmA
      ∧ within ((armedLast 0).chip 0).cyc (((armedLast 0).chip 0).det.pw.get .v1).ts Config.pwmTimeout = true
      ∧ (0x49 : Byte) ≠ 0x01 ∧ (0x49 : Byte) ≠ 0x41 :=
  ⟨by unfold State.reaches; decide, by decide, decide_eq_true h.1, by decide, decide_eq_true h.2, by decide, by decide⟩
/-- Out of time, 0x41 after pulse+test+gate is not consumed (vector DD10: seven cycles). -/
theorem witness_SwallowArmsAndCaptures_timedOut (h : Config.pwmTimeout ≤ 7) :
    (armedLast 7).reaches (busAddr 0x6A0 (voiceReg .v1 4)) 0
      ∧ (((armedLast 7).chip 0).det.pw.get .v1).phase = .confirmA
      ∧ within ((armedLast 7).chip 0).cyc (((armedLast 7).chip 0).det.pw.get .v1).ts Config.pwmTimeout = false :=
  ⟨by unfold State.reaches; decide, by decide, decide_eq_false (Nat.not_lt.2 h)⟩
/-- A chip in the exact register state of Mahoney (S8), its sustain at the boundary 0xFB. -/
def mahoneyState : State :=
  chip0 (fun c => { c with
    regs := perVoice { zeroRegs with wave := 0x49, sr := 0xFB }
    filter := { c.filter with filt := ⟨true, true, false⟩, cutoff := 0x7FF } }) boot
theorem witness_VolumeWriteIsASample :
    mahoneyState.reaches (busAddr 0x6A0 0x18) 0 ∧ (mahoneyState.chip 0).det.en = true
      ∧ isMahoney (mahoneyState.chip 0) = true
      ∧ boot.reaches (busAddr 0x6A0 0x18) 0 ∧ (boot.chip 0).det.en = true ∧ isMahoney (boot.chip 0) = false
      ∧ (boot.chip 0).det.src = .unused
      ∧ fmHeld.reaches (busAddr 0x6A0 0x18) 0 ∧ (fmHeld.chip 0).det.en = true ∧ isMahoney (fmHeld.chip 0) = false
      ∧ (fmHeld.chip 0).det.src = .voice .v0 := by unfold State.reaches; decide
theorem witness_PsidLatchesAndControl :
    (boot.chip 0).realFile = true ∧ powerOnChip.realFile = false
      ∧ psidRegAt (psidMap .startLo) = some .startLo ∧ (boot.chip 0).srate ≠ 0 ∧ (regOf 0xD418).toNat = 0x18
      ∧ powerOnChip.det.psid.prPeriod = 0
      ∧ ({ zeroPsid with prPeriod := 1 } : Psid).prPeriod ≠ 0 ∧ ((0xFC : Byte) ≠ 0xFD ∧ (0xFC : Byte) ≠ 0xFF ∧ (0xFC : Byte) ≠ 0xFE) :=
  ⟨by decide, rfl, by simp [psidRegAt, psidOrder], by decide, by decide, rfl, by decide, by decide⟩
theorem witness_PsidLatchesAndControl_registers (h : ∀ r q, psidMap r = psidMap q → r = q) (r : PsidReg) :
    psidRegAt (psidMap r) = some r := by
  have hne : ∀ q, q ≠ r → psidMap q ≠ psidMap r := fun q hq e => hq (h q r e)
  cases r <;> simp [psidRegAt, psidOrder, hne]
/-- A chip whose player runs from 0x1000 to `last`. -/
def playing (pos : BitVec 48) (last repeatAt : Addr) (cnt : Byte) : Chip :=
  { powerOnChip with det := { powerOnChip.det with
      en := true
      psid := { zeroPsid with
        pdActive := true, pdCur := 0x1000, pdPos := pos, prEnd := last, prRepAddr := repeatAt, pdCnt := cnt } } }
/-- The four ends of a tick: before the end, the end with no repeat, with a repeat, and with an empty repeat segment. -/
theorem witness_PsidPlayerTick :
    psidRuns powerOnChip = false ∧ psidRuns (playing 0x10000 0x1001 0 0) = true
      ∧ ¬ (0x1001 : Addr).toNat ≤ (psidAddr (playing 0x10000 0x1001 0 0).det.psid).toNat
      ∧ (0x1001 : Addr).toNat ≤ (psidAddr (playing 0x20000 0x1001 0 0).det.psid).toNat
      ∧ (playing 0x20000 0x1001 0 0).det.psid.pdCnt = 0 ∧ (playing 0x20000 0x1001 0x1000 0xFF).det.psid.pdCnt ≠ 0
      ∧ (0x1000 : Addr).toNat < (0x1001 : Addr).toNat ∧ (0x1001 : Addr).toNat ≤ (0x1001 : Addr).toNat := by decide
theorem witness_DigiStandsInForItsVoice :
    powerOnChip.det.en = false ∧ (boot.chip 0).det.src = .unused ∧ (fmHeld.chip 0).det.en = true
      ∧ (fmHeld.chip 0).det.src = .voice .v0 ∧ (fmHeld.chip 0).mutesFollowSource
      ∧ (setSource .d418 .volume (boot.chip 0)).det.src = .volume := by unfold Chip.mutesFollowSource; decide
theorem witness_SilencedVoice3 : ({ powerOnChip.filter with filt := ⟨false, false, true⟩ } : Filter).filt.v2 = true := rfl
theorem witness_DisabledFilterIsTheSum :
    powerOnChip.filter.lp = false ∧ powerOnChip.filter.bp = false ∧ powerOnChip.filter.hp = false
      ∧ powerOnChip.historyFlushed := ⟨rfl, rfl, rfl, fun _ => ⟨rfl, rfl⟩⟩
theorem witness_HardClip :
    (32768 : Int) > 32767 ∧ (-32768 : Int) < -32767 ∧ (-32767 : Int) ≤ 32767 ∧ (-32767 : Int) ≤ -32767 := by decide
/-- One word of each of the three bus opcodes. -/
theorem witness_PowerOn :
    opOf 0x0100_D418_0000_000F = 0x01 ∧ opOf 0x0200_D41B_0000_0000 = 0x02 ∧ opOf 0x0300_0000_0000_0000 = 0x03 := by decide
/-- One command that is none of the six and completes, so that every clause's premise holds of it. -/
theorem witness_RegistryChangesOnlyInItsCommands :
    exec (.reserved 0) boot = .next boot ∧ Instr.reserved 0 ≠ .resetAll ∧ (∀ n, Instr.reserved 0 ≠ .configSrate n)
      ∧ (∀ n, Instr.reserved 0 ≠ .configCrate n) ∧ (∀ n, Instr.reserved 0 ≠ .configCount n) :=
  ⟨rfl, by simp, by simp, by simp, by simp⟩
theorem witness_BuffersAndResponsesHaveTheirCommands :
    (Instr.reserved 0x10).wellFormed = true ∧ exec (.reserved 0x10) boot = .next boot
      ∧ opOf (encode (.reserved 0x10)) = 0x10 ∧ opOf (encode (.readBus 0xD400)) = 0x02
      ∧ (seen (fun t => t.responses) (exec (.readBus 0xD400) boot)).isSome = true :=
  ⟨by decide, rfl, by decide, by decide, by decide⟩
theorem witness_ChipLifeCycle :
    ((configured bootRegistry).chip 0).life = .uninit
      ∧ seen (fun t => (t.chip 0).life) (exec (.reset 0) (configured bootRegistry)) = some Life.reset
      ∧ (boot.chip 0).life = .reset ∧ seen (fun t => (t.chip 0).life) (exec (.clock 0) boot) = some Life.active := by decide
/-- Two states that differ in what a trace buffer holds. -/
theorem witness_TracesNeverReachTheAudio :
    boot.audible = ({ boot with traces := ⟨perVoice [], [(0, 1)]⟩ } : State).audible
      ∧ boot ≠ { boot with traces := ⟨perVoice [], [(0, 1)]⟩ }
      ∧ exec .clockAll State.reset = .next State.reset := by
  refine ⟨rfl, fun h => ?_, rfl⟩
  have hd := congrArg (fun s => s.traces.digi) h
  revert hd
  decide
/-- `s` with one command word waiting. -/
def waiting (w : Word) (s : State) : State := { s with port := [w] }
/-- Each property below holds of a state where a command waits that moves what the property speaks of, and runs. -/
theorem witness_StepKeepsMemoriesCanonical :
    (waiting 0x0D00_03FF_0000_0001 boot).memoriesCanonical = true
      ∧ ∃ t, step (waiting 0x0D00_03FF_0000_0001 boot) = .next t := ⟨by decide, _, rfl⟩
theorem readSample_of_empty (i : Nat) : readSample [] i = 0 := by
  simp only [readSample, readWord, readByte]
  decide
theorem witness_StepKeepsSamplesInRange :
    (waiting 0x0D00_03FF_0000_0001 boot).memoriesCanonical = true ∧ (waiting 0x0D00_03FF_0000_0001 boot).samplesInRange
      ∧ ∃ t, step (waiting 0x0D00_03FF_0000_0001 boot) = .next t := by
  have h : samplesInRange [] := fun i => by
    rw [readSample_of_empty]
    decide
  exact ⟨by decide, ⟨h, fun v => by cases v <;> exact h, h⟩, _, rfl⟩
theorem witness_StepKeepsBusOnChipsInUse :
    ten.busMapsChipsInUse ∧ ten.chip0Fixed ∧ (waiting 0x0700_0000_0000_0000 boot).busMapsChipsInUse
      ∧ (waiting 0x0700_0000_0000_0000 boot).chip0Fixed ∧ ∃ t, step (waiting 0x0700_0000_0000_0000 boot) = .next t := by
  refine ⟨?_, ?_, ?_, ?_, _, rfl⟩ <;> first
    | (unfold State.busMapsChipsInUse; decide)
    | (unfold State.chip0Fixed; decide)
theorem witness_StepKeepsMutesOfTheTechnique :
    (∀ i, ((waiting 0x0A00_0000_0000_0001 fmHeld).chip i).mutesFollowSource)
      ∧ ∃ t, step (waiting 0x0A00_0000_0000_0001 fmHeld) = .next t :=
  ⟨by unfold Chip.mutesFollowSource; decide, _, rfl⟩
theorem witness_StepKeepsDisabledFilterFlushed :
    (∀ i, ((waiting 0x0100_D418_0000_008F boot).chip i).historyFlushed)
      ∧ ∃ t, step (waiting 0x0100_D418_0000_008F boot) = .next t := ⟨by unfold Chip.historyFlushed; decide, _, rfl⟩
theorem witness_StepKeepsModelConstants :
    (∀ i, ((waiting 0x0F00_0000_0000_0000 (configured bootRegistry)).chip i).constantsDerived)
      ∧ ∃ t, step (waiting 0x0F00_0000_0000_0000 (configured bootRegistry)) = .next t := by
  refine ⟨?_, _, rfl⟩
  intro i h
  revert i
  decide
theorem witness_StepKeepsDisabledDetectorInert :
    (∀ i, ((waiting 0x0A00_0000_0000_0001 fmHeld).chip i).disabledInert
        ∧ ((waiting 0x0A00_0000_0000_0001 fmHeld).chip i).realFilePlayerStill)
      ∧ ∃ t, step (waiting 0x0A00_0000_0000_0001 fmHeld) = .next t :=
  ⟨by unfold Chip.disabledInert Chip.realFilePlayerStill; decide, _, rfl⟩
theorem witness_StepKeepsAutomataExclusive :
    (∀ i, ((waiting 0x0100_D404_0000_0011 boot).chip i).automataExclusive)
      ∧ ∃ t, step (waiting 0x0100_D404_0000_0011 boot) = .next t := by
  refine ⟨?_, _, rfl⟩
  intro i v
  cases v <;> (revert i; decide)

end Sys2Proof.Tests
end

/-! Register access (40_register_access.md): the rules of a WRITE that reaches a chip, of a READ and of a chip reset, and
from them the statements about FREQ_HI and the bus latch. -/

namespace Sys2Proof.Machine

/-! ### The commands as the shared bus operations -/

theorem exec_writeFreqLo (win : BitVec 11) (v : Voice) (val : Byte) (s : State) :
    exec (.writeFreqLo win v val) s = writeBus (busAddr win (voiceReg v 0)) val (pokeFreqLo v val) s := rfl

theorem exec_writeFreqHi (win : BitVec 11) (v : Voice) (val : Byte) (s : State) :
    exec (.writeFreqHi win v val) s = writeBus (busAddr win (voiceReg v 1)) val (pokeFreqHi v val) s := rfl

theorem exec_writeFcLo (win : BitVec 11) (val : Byte) (s : State) :
    exec (.writeFcLo win val) s = writeBus (busAddr win 0x15) val (filterPoke (pokeFcLo val)) s := rfl

theorem exec_writeFcHi (win : BitVec 11) (val : Byte) (s : State) :
    exec (.writeFcHi win val) s = writeBus (busAddr win 0x16) val (filterPoke (pokeFcHi val)) s := rfl

theorem exec_readBus (addr : Addr) (s : State) : exec (.readBus addr) s = readBusWith addr (fun c => c.bus) s := rfl

/-! ### One chip replaced -/

/-- Replacing chip `i` changes nothing outside it. -/
theorem onlyChip_setChip (i : Fin 10) (s : State) (c : Chip) : onlyChip i s (s.setChip i c) :=
  ⟨fun j hj => chip_setChip_ne s i j c hj, ⟨rfl, rfl, rfl⟩, rfl, fun _ _ => rfl, fun _ _ => ⟨fun _ => rfl, rfl⟩⟩

/-- Replacing a chip moves no entry of the lookup table. -/
@[simp] theorem busChip_setChip (s : State) (i : Fin 10) (c : Chip) (a : Addr) :
    busChip (s.setChip i c) a = busChip s a := rfl

/-- What reached chip `i` still reaches it once it is replaced by a chip that has been reset. -/
theorem reaches_setChip {s : State} {a : Addr} {i : Fin 10} (c : Chip) (h : s.reaches a i) (hc : c.life ≠ .uninit) :
    (s.setChip i c).reaches a i :=
  ⟨h.1, by rwa [chip_setChip_same]⟩

/-! ### WRITE (R131) -/

/-- A WRITE that reaches chip `i` replaces that chip. -/
theorem writeBus_of_reaches {a : Addr} {s : State} {i : Fin 10} (val : Byte) (poke : Chip → Chip) (h : s.reaches a i) :
    writeBus a val poke s = .next (s.setChip i (writeChip a val poke (s.chip i))) :=
  onBus_of_reaches a s _ i h

/-- The register's own rule runs on the chip from before the write, with `LIFE`, the bus latch, the detector and the mutes
moved on: whether the detector consumed the byte does not matter. -/
theorem writeChip_eq (a : Addr) (val : Byte) (poke : Chip → Chip) (c : Chip) :
    writeChip a val poke c =
      let d := (detectSample a val { c with life := .active }).1
      poke { c with life := .active, bus := val, det := d.det, mute := d.mute } := by
  have hframe : sameButDetector { c with life := .active } (detectSample a val { c with life := .active }).1 :=
    detectSample_frame a val _
  unfold sameButDetector at hframe
  unfold writeChip
  dsimp only
  rw [hframe]

/-- A WRITE latches its byte, where the register's rule leaves the latch alone. -/
theorem writeChip_bus (a : Addr) (val : Byte) (poke : Chip → Chip) (c : Chip) (hbus : ∀ d, (poke d).bus = d.bus) :
    (writeChip a val poke c).bus = val := by
  rw [writeChip_eq, hbus]

/-- A WRITE makes the chip active, where the register's rule leaves `LIFE` alone. -/
theorem writeChip_life (a : Addr) (val : Byte) (poke : Chip → Chip) (c : Chip) (hlife : ∀ d, (poke d).life = d.life) :
    (writeChip a val poke c).life = .active := by
  rw [writeChip_eq, hlife]

/-- A WRITE that reaches chip `i` completes, latches its byte there, answers nothing, and leaves every address of that chip
an address of that chip. -/
theorem writeBus_latches {a : Addr} {s : State} {i : Fin 10} (val : Byte) {poke : Chip → Chip} (h : s.reaches a i)
    (hlife : ∀ d, (poke d).life = d.life) (hbus : ∀ d, (poke d).bus = d.bus) :
    ∃ t, writeBus a val poke s = .next t ∧ (t.chip i).bus = val ∧ t.responses = s.responses
      ∧ ∀ b, s.reaches b i → t.reaches b i := by
  refine ⟨_, writeBus_of_reaches val poke h, ?_, rfl, fun b hb => reaches_setChip _ hb ?_⟩
  · rw [chip_setChip_same]
    exact writeChip_bus a val poke _ hbus
  · simp [writeChip_life a val poke _ hlife]

@[simp] theorem pokeFreqLo_life (v : Voice) (val : Byte) (c : Chip) :
    (pokeFreqLo v val c).life = c.life := by simp [pokeFreqLo]

@[simp] theorem pokeFreqLo_bus (v : Voice) (val : Byte) (c : Chip) :
    (pokeFreqLo v val c).bus = c.bus := by simp [pokeFreqLo]

/-- The high frequency byte is the high half of the frequency (10_state.md R27). -/
theorem getFreq_of_set_freqHi (c : Chip) (v : Voice) (val : Byte) {c' : Chip}
    (h : c'.regs = c.regs.set v { c.regs.get v with freqHi := val }) :
    getFreq c' v = val ++ (getFreq c v).extractLsb' 0 8 := by
  simp only [getFreq, h, PerVoice.get_set_same, BitVec.extractLsb'_append_eq_right]

/-! ### READ of the bus latch (R156, R159) -/

/-- A READ that reaches chip `i` answers that chip's byte. -/
theorem readBusWith_of_reaches {a : Addr} {s : State} {i : Fin 10} (f : Chip → Byte) (h : s.reaches a i) :
    readBusWith a f s = .next { s with responses := s.responses ++ [(f (s.chip i)).setWidth 32] } :=
  onBus_of_reaches a s _ i h

theorem exec_readBus_of_reaches {a : Addr} {s : State} {i : Fin 10} (h : s.reaches a i) :
    exec (.readBus a) s = .next { s with responses := s.responses ++ [(s.chip i).bus.setWidth 32] } := by
  rw [exec_readBus, readBusWith_of_reaches _ h]

/-- What a WRITE latched at a chip, a READ of any address of that chip answers. -/
theorem writeBus_then_readBus {a b : Addr} {s : State} {i : Fin 10} (val : Byte) {poke : Chip → Chip}
    (ha : s.reaches a i) (hb : s.reaches b i) (hlife : ∀ d, (poke d).life = d.life) (hbus : ∀ d, (poke d).bus = d.bus) :
    ∃ t u, writeBus a val poke s = .next t ∧ exec (.readBus b) t = .next u
      ∧ u.responses = s.responses ++ [val.setWidth 32] := by
  obtain ⟨t, hwrite, hval, hresp, hreach⟩ := writeBus_latches val ha hlife hbus
  exact ⟨t, _, hwrite, exec_readBus_of_reaches (hreach b hb), by simp [hval, hresp]⟩

/-! ### RESET (45_registry.md R337, R338) -/

/-- A RESET that names chip `i` and completes has reset that chip. -/
theorem chip_of_exec_reset {c : BitVec 8} {i : Fin 10} {s t : State} (hc : chipIndex c = some i)
    (h : exec (.reset c) s = .next t) : t.chip i = resetChip (resetArgs s.registry i) := by
  simp only [exec, execReset, hc] at h
  split at h
  · cases h
  · cases h
    exact chip_setChip_same s i _

end Sys2Proof.Machine

namespace Sys2Proof.Proofs

open Sys2Proof.Machine

/-- Settles O9: the detector's part is `writeChip_eq`, from the frame of `detectSample`. -/
theorem freqHiWrite : Obligations.FreqHiWrite := by
  intro win v val s i h c d c'
  have hchip : writeChip (busAddr win (voiceReg v 1)) val (pokeFreqHi v val) c = c' := by
    rw [writeChip_eq]
    rfl
  refine ⟨?_, getFreq_of_set_freqHi c v val rfl, onlyChip_setChip i s c'⟩
  rw [exec_writeFreqHi, writeBus_of_reaches _ _ h, hchip]

/-- Settles O16: each WRITE latches its byte whatever register it names, and each READ answers the latch. -/
theorem readAnswersBusLatch : Obligations.ReadAnswersBusLatch := by
  refine ⟨fun addr s i _ h => exec_readBus_of_reaches h, fun s t c i hc h => ?_, fun win val s i => ⟨?_, ?_, ?_⟩⟩
  case refine_1 =>
    rw [chip_of_exec_reset hc h]
    rfl
  case refine_2 =>
    intro h
    simpa only [exec_writeFcLo] using writeBus_then_readBus val h h (filterPoke_life _) (filterPoke_bus _)
  case refine_3 =>
    intro h
    simpa only [exec_writeFcHi] using writeBus_then_readBus val h h (filterPoke_life _) (filterPoke_bus _)
  case refine_4 =>
    intro later hfc hfreq
    obtain ⟨t, hwrite, _, hresp, hreach⟩ :=
      writeBus_latches val hfc (filterPoke_life (pokeFcHi val)) (filterPoke_bus (pokeFcHi val))
    obtain ⟨u, w, hlater, hread, hw⟩ :=
      writeBus_then_readBus later (hreach _ hfreq) (hreach _ hfc) (pokeFreqLo_life .v0 later) (pokeFreqLo_bus .v0 later)
    refine ⟨w, ?_, by rw [hw, hresp]⟩
    simp only [execAll, exec_writeFcHi, exec_writeFreqLo, hwrite, hlater, hread, andThen]

end Sys2Proof.Proofs

/-! CLOCK and CLOCKALL (41_clock.md): what one pass over a set of chips leaves, whatever the order of the pass. -/

namespace Sys2Proof.Machine

/-! ### CLOCK of one chip (R181) -/

/-- CLOCK of the selector that is a chip's number is CLOCK of that chip. -/
theorem exec_clock_ofNat (i : Fin 10) (s : State) : exec (.clock (BitVec.ofNat 8 i.val)) s = clockAt i s := by
  have hnat : (BitVec.ofNat 8 i.val).toNat = i.val := by
    rw [BitVec.toNat_ofNat]
    omega
  have hc : chipIndex (BitVec.ofNat 8 i.val) = some i := (chipIndex_eq_some _ i).mpr hnat
  change execClock (BitVec.ofNat 8 i.val) s = clockAt i s
  simp only [execClock, hc]

/-- CLOCK of a chip that has been reset replaces that chip. -/
theorem clockAt_of_life (i : Fin 10) (s : State) (h : (s.chip i).life ≠ .uninit) :
    clockAt i s = .next (s.setChip i (clockChip (s.chip i))) :=
  onInitialised_of_life i s _ h

/-- One CLOCK after another is the loop of CLOCKALL over the same chips. -/
theorem execAll_clock (l : List (Fin 10)) (s : State) :
    execAll (l.map fun i => Instr.clock (BitVec.ofNat 8 i.val)) s = forEach clockAt l s := by
  induction l generalizing s with
  | nil => rfl
  | cons i rest ih =>
    have hrest : execAll (rest.map fun i => Instr.clock (BitVec.ofNat 8 i.val)) = forEach clockAt rest := funext ih
    simp only [List.map_cons, execAll, forEach, exec_clock_ofNat, hrest]

/-! ### CLOCK of several chips (R183) -/

/-- Every chip of `l` one cycle on, all at once: no order is left to observe. -/
def clockedOn (l : List (Fin 10)) (s : State) : State :=
  { s with chips := Vector.ofFn fun j => if j ∈ l then clockChip (s.chip j) else s.chip j }

@[simp] theorem chip_clockedOn (l : List (Fin 10)) (s : State) (j : Fin 10) :
    (clockedOn l s).chip j = if j ∈ l then clockChip (s.chip j) else s.chip j := by
  simp [State.chip, clockedOn]

/-- Two lists of the same chips leave the same state. -/
theorem clockedOn_congr {l m : List (Fin 10)} (h : ∀ j, j ∈ l ↔ j ∈ m) (s : State) : clockedOn l s = clockedOn m s := by
  simp only [clockedOn, h]

@[simp] theorem clockedOn_nil (s : State) : clockedOn [] s = s := by
  have hchips : (Vector.ofFn fun j => s.chip j) = s.chips := by
    ext1 j hj
    simp [State.chip]
  simp [clockedOn, hchips]

/-- The chips share no state, so clocking chip `i` and then chips other than `i` is clocking them all at once. -/
theorem clockedOn_setChip {i : Fin 10} {rest : List (Fin 10)} (hi : i ∉ rest) (s : State) :
    clockedOn rest (s.setChip i (clockChip (s.chip i))) = clockedOn (i :: rest) s := by
  have hchip (j : Fin 10) :
      (if j ∈ rest then clockChip ((s.setChip i (clockChip (s.chip i))).chip j)
          else (s.setChip i (clockChip (s.chip i))).chip j)
        = if j ∈ i :: rest then clockChip (s.chip j) else s.chip j := by
    by_cases hj : j = i
    · subst hj
      simp [hi]
    · simp [hj]
  simp only [clockedOn, hchip]
  rfl

/-- The loop over chips that have been reset, each of them once, clocks each of them. -/
theorem forEach_clockAt {l : List (Fin 10)} (hl : l.Nodup) {s : State} (hs : ∀ i ∈ l, (s.chip i).life ≠ .uninit) :
    forEach clockAt l s = .next (clockedOn l s) := by
  induction l generalizing s with
  | nil => simp [forEach]
  | cons i rest ih =>
    obtain ⟨hi, hrest⟩ := List.nodup_cons.mp hl
    have hnext : ∀ j ∈ rest, ((s.setChip i (clockChip (s.chip i))).chip j).life ≠ .uninit := by
      intro j hj
      have hne : j ≠ i := fun e => hi (e ▸ hj)
      rw [chip_setChip_ne _ _ _ _ hne]
      exact hs j (List.mem_cons_of_mem i hj)
    rw [forEach, clockAt_of_life i s (hs i List.mem_cons_self), andThen, ih hrest hnext, clockedOn_setChip hi]

/-! ### The chips in use (10_state.md R53) -/

theorem activeChips_nodup (s : State) : (activeChips s).Nodup :=
  List.Nodup.filter _ (by decide : chipOrder.Nodup)

theorem activeInitialised_iff (s : State) :
    s.activeInitialised = true ↔ ∀ i ∈ activeChips s, (s.chip i).life ≠ .uninit := by
  simp [State.activeInitialised, State.initialised]

theorem activeChips_of_nUsed_zero {s : State} (h : s.registry.nUsed = 0) : activeChips s = [] :=
  List.eq_nil_iff_forall_not_mem.mpr fun i => by simp [mem_activeChips, h]

/-- In whatever order the chips in use are visited, the loop leaves the same state. -/
theorem forEach_clockAt_of_perm {l : List (Fin 10)} {s : State} (hl : l.Perm (activeChips s))
    (hs : s.activeInitialised = true) : forEach clockAt l s = .next (clockedOn (activeChips s) s) := by
  have hlife := (activeInitialised_iff s).mp hs
  rw [forEach_clockAt (hl.nodup_iff.mpr (activeChips_nodup s)) fun i hi => hlife i (hl.mem_iff.mp hi),
    clockedOn_congr fun _ => hl.mem_iff]

/-- CLOCKALL clocks the chips in use. -/
theorem exec_clockAll {s : State} (hs : s.activeInitialised = true) :
    exec .clockAll s = .next (clockedOn (activeChips s) s) :=
  forEach_clockAt_of_perm (List.Perm.refl _) hs

/-- Each cycle counter of a chip in use moves by one, and no other. -/
theorem cyc_clockedOn_activeChips (s : State) (j : Fin 10) :
    ((clockedOn (activeChips s) s).chip j).cyc
      = if j.val < s.registry.nUsed.val then (s.chip j).cyc + 1 else (s.chip j).cyc := by
  simp only [chip_clockedOn, mem_activeChips]
  split <;> rfl

end Sys2Proof.Machine

namespace Sys2Proof.Proofs

open Sys2Proof.Machine

/-- Settles O19: every pass over the chips in use leaves `clockedOn`, which speaks only of which chips those are. -/
theorem clockAllClocksEveryChip : Obligations.ClockAllClocksEveryChip := by
  intro s hs
  refine ⟨clockedOn (activeChips s) s, exec_clockAll hs, fun l hl => ?perm, cyc_clockedOn_activeChips s,
    fun j hj => ?unused, fun j k hj hk hcyc => ?equal, fun hnone => ?none, ⟨rfl, rfl, rfl⟩, rfl,
    fun _ _ => rfl, fun _ _ => ⟨fun _ => rfl, rfl⟩⟩
  case perm => rw [execAll_clock, forEach_clockAt_of_perm hl hs]
  case unused =>
    have hout : j ∉ activeChips s := fun h => Nat.not_lt.mpr hj ((mem_activeChips s j).mp h)
    rw [chip_clockedOn, if_neg hout]
  case equal => rw [cyc_clockedOn_activeChips, cyc_clockedOn_activeChips, if_pos hj, if_pos hk, hcyc]
  case none => rw [activeChips_of_nUsed_zero hnone, clockedOn_nil]

end Sys2Proof.Proofs

/-! The Filter (42_filter.md): where a signal goes, and the output with every mode off. -/

namespace Sys2Proof.Machine

/-! ### Routing (R191, R192) -/

/-- A voice is silenced exactly when it is voice 3, not routed, and disconnected. -/
theorem isSilencedVoice3_iff (f : Filter) (v : Voice) :
    isSilencedVoice3 f v = true ↔ v = .v2 ∧ f.filt.v2 = false ∧ f.v3off = true := by
  simp [isSilencedVoice3, PerVoice.get, and_assoc]

/-- Voices 1 and 2 are never silenced, whatever the bits. -/
theorem isSilencedVoice3_of_ne (f : Filter) {v : Voice} (hv : v ≠ .v2) : isSilencedVoice3 f v = false :=
  Bool.eq_false_iff.mpr fun h => hv ((isSilencedVoice3_iff f v).mp h).1

/-- A routed voice goes to the filtered sum; `V3OFF` is not looked at. -/
theorem routeSignal_of_routed (f : Filter) (x : Int) (sm : Sums) (v : Voice) (hv : f.filt.get v = true) :
    routeSignal f x sm v = ⟨sm.f + x, sm.u⟩ :=
  if_pos hv

/-! ### The output with every mode off (R194) -/

theorem modesOff_iff (f : Filter) : modesOff f = true ↔ f.lp = false ∧ f.bp = false ∧ f.hp = false := by
  simp [modesOff, and_assoc]

theorem outputLevel_of_modesOff {c : Chip} (h : modesOff c.filter = true) (sm : Sums) :
    outputLevel c sm = sm.f + sm.u :=
  if_pos h

theorem outputState_of_modesOff {c : Chip} (h : modesOff c.filter = true) (sm : Sums) : outputState c sm = c :=
  if_pos h

end Sys2Proof.Machine

namespace Sys2Proof.Proofs

open Sys2Proof.Machine

/-- Settles O41: routing is tested before the disconnection, so a routed voice 3 never meets `isSilencedVoice3`. -/
theorem silencedVoice3 : Obligations.SilencedVoice3 := fun f v x sm =>
  ⟨isSilencedVoice3_iff f v, isSilencedVoice3_of_ne f (by decide), isSilencedVoice3_of_ne f (by decide),
    routeSignal_of_routed f x sm .v2⟩

/-- Settles O42: with the modes off neither the level nor the state comes from the transfer function, and the invariant
speaks of exactly this case. -/
theorem disabledFilterIsTheSum : Obligations.DisabledFilterIsTheSum := by
  intro c sm hlp hbp hhp
  have hoff : modesOff c.filter = true := (modesOff_iff c.filter).mpr ⟨hlp, hbp, hhp⟩
  exact ⟨outputLevel_of_modesOff hoff sm, outputState_of_modesOff hoff sm, fun hflushed => (hflushed hoff).1⟩

end Sys2Proof.Proofs

/-! The detector (43_digi_detector.md): what ending a technique does to the mutes. -/

namespace Sys2Proof.Machine

/-! ### What restores the mutes (R224, R225, R272) -/

/-- A change of technique or source restores the mutes and starts a new count. -/
theorem setSource_of_change {type : DigiType} {src : DigiSrc} {c : Chip} (h : c.det.type ≠ type ∨ c.det.src ≠ src) :
    setSource type src c =
      { restoreMutes c with det := { (restoreMutes c).det with count := 0, type := type, src := src } } :=
  if_pos h

/-- A window that closes without a sample restores the mutes and ends the technique. -/
theorem resetCount_of_emptyWindow {c : Chip} (hcount : c.det.count = 0) (htype : c.det.type ≠ .none) :
    resetCount c =
      { restoreMutes c with det := { (restoreMutes c).det with type := .none, src := .unused, count := 0 } } :=
  if_pos ⟨hcount, htype⟩

@[simp] theorem disableDetector_mute (c : Chip) : (disableDetector c).mute = (restoreMutes c).mute := rfl
@[simp] theorem disableDetector_det_muted (c : Chip) : (disableDetector c).det.muted = perVoice false := rfl
@[simp] theorem detectorReset_mute (c : Chip) : (detectorReset c).mute = (restoreMutes c).mute := rfl
@[simp] theorem detectorReset_det_muted (c : Chip) : (detectorReset c).det.muted = perVoice false := rfl

/-- Where every mute is the active technique's, restoring leaves no voice muted. -/
theorem restoreMutes_mute_of_mutesFollowSource {c : Chip} (h : c.mutesFollowSource) :
    (restoreMutes c).mute = perVoice false := by
  obtain ⟨_, _, hremembered⟩ := h
  exact restoreMutes_mute_of_eq c hremembered

end Sys2Proof.Machine

/-! A namespace of its own: within `Sys2Proof.Proofs` the theorem's name would hide `Machine.restoreMutes`. -/

namespace Sys2Proof.Proofs.Mutes

open Sys2Proof.Machine

/-- Settles O33: each of the four operations is `restoreMutes` followed by an update that touches no mute, and where the
mutes follow the source the detector's flags cover all of them. -/
theorem restoreMutes : Obligations.RestoreMutes := by
  intro c
  refine ⟨restoreMutes_mute_get c, fun v => ?forgotten, fun type src hchange => ?changed,
    fun hcount htype => ?emptyWindow, disableDetector_mute c, ?disabled, detectorReset_mute c, ?reset,
    restoreMutes_mute_of_mutesFollowSource⟩
  case forgotten => rw [restoreMutes_det_muted, get_perVoice]
  case changed =>
    rw [setSource_of_change hchange]
    exact ⟨rfl, rfl⟩
  case emptyWindow =>
    rw [resetCount_of_emptyWindow hcount htype]
    exact ⟨rfl, rfl⟩
  case disabled => rw [disableDetector_det_muted, restoreMutes_det_muted]
  case reset => rw [detectorReset_det_muted, restoreMutes_det_muted]

end Sys2Proof.Proofs.Mutes

/-! The render (44_render.md): the hard clip. -/

namespace Sys2Proof.Machine

/-! ### The clip outside its bounds (R300) -/

theorem clip_of_gt {x : Int} (h : x > 32767) : clip x = 32767 :=
  if_pos h

theorem clip_of_lt {x : Int} (h : x < -32767) : clip x = -32767 :=
  have hnotAbove : ¬ x > 32767 := by omega
  (if_neg hnotAbove).trans (if_pos h)

end Sys2Proof.Machine

namespace Sys2Proof.Proofs

open Sys2Proof.Machine

/-- Settles O43: one case per range; -32768 lies below the lower bound of every clipped value. -/
theorem hardClip : Obligations.HardClip := by
  intro x
  have hlower : -32767 ≤ clip x := (clip_bounds x).1
  exact ⟨clip_of_gt, clip_of_lt, fun hlo hhi => clip_eq_self x ⟨hlo, hhi⟩, by omega⟩

end Sys2Proof.Proofs

/-! The Multi-chip Registry (45_registry.md): the render loop over the chips in use. -/

namespace Sys2Proof.Machine

/-! ### Command lists and loops over the chips -/

/-- The selector that is a chip's number names that chip. -/
theorem chipIndex_ofNat (i : Fin 10) : chipIndex (BitVec.ofNat 8 i.val) = some i := by
  rw [chipIndex_eq_some, BitVec.toNat_ofNat]
  omega

/-- A list of commands, one per chip, is the loop whose turns they are, where every turn completes and keeps the property
under which command and turn agree. -/
theorem execAll_map_eq_forEach {P : State → Prop} {f : Fin 10 → State → Result} {g : Fin 10 → Instr} (l : List (Fin 10))
    (hexec : ∀ i ∈ l, ∀ s, P s → exec (g i) s = f i s)
    (hf : ∀ i ∈ l, ∀ s, P s → ∃ t, f i s = .next t ∧ P t) :
    ∀ s, P s → execAll (l.map g) s = forEach f l s := by
  induction l with
  | nil => exact fun _ _ => rfl
  | cons i rest ih =>
    intro s hs
    obtain ⟨u, hu, hPu⟩ := hf i List.mem_cons_self s hs
    have hrest : execAll (rest.map g) u = forEach f rest u :=
      ih (fun j hj => hexec j (List.mem_cons_of_mem i hj)) (fun j hj => hf j (List.mem_cons_of_mem i hj)) u hPu
    simp only [List.map_cons, execAll, forEach, hexec i List.mem_cons_self s hs, hu, andThen, hrest]

/-! ### The scale and the clear flag of a turn (R343) -/

theorem mem_chipsBelow (n : Nat) (i : Fin 10) : i ∈ chipsBelow n ↔ i.val < n := by
  have h : i ∈ chipOrder := by revert i; decide
  simp [chipsBelow, h]

/-- A chip clears its word exactly where no chip before it is on its channel. -/
theorem firstOnChannel_eq (s : State) (i : Fin 10) :
    firstOnChannel s i = decide (∀ j : Fin 10, j < i → (s.chip j).chan ≠ (s.chip i).chan) := by
  rw [Bool.eq_iff_iff]
  simp [firstOnChannel, sameChannel, mem_chipsBelow]

theorem sameChannel_congr {s u : State} (hchan : ∀ j, (u.chip j).chan = (s.chip j).chan) (i : Fin 10) :
    sameChannel u i = sameChannel s i := by
  funext j
  simp only [sameChannel, hchan]

/-- The scale of a turn depends on the registry and the channels alone. -/
theorem channelScale_congr {s u : State} (hreg : u.registry = s.registry)
    (hchan : ∀ j, (u.chip j).chan = (s.chip j).chan) (i : Fin 10) : channelScale u i = channelScale s i := by
  simp only [channelScale, channelCount, activeChips, hreg, sameChannel_congr hchan]

/-- The clear flag of a turn depends on the channels alone. -/
theorem firstOnChannel_congr {s u : State} (hchan : ∀ j, (u.chip j).chan = (s.chip j).chan) (i : Fin 10) :
    firstOnChannel u i = firstOnChannel s i := by
  simp only [firstOnChannel, sameChannel_congr hchan]

/-! ### SYNTH_STRIPPED at a chip (44_render.md R305) -/

/-- SYNTH_STRIPPED of the selector that is a chip's number is SYNTH_STRIPPED of that chip. -/
theorem exec_synthStripped_ofNat (i : Fin 10) (scale : Byte) (clearFlag : Bool) (offset : BitVec 32) (s : State) :
    exec (.synthStripped (BitVec.ofNat 8 i.val) scale clearFlag offset) s
      = synthStrippedAt i scale clearFlag offset s := by
  change execSynthStripped (BitVec.ofNat 8 i.val) scale clearFlag offset s = _
  simp only [execSynthStripped, chipIndex_ofNat]

/-- SYNTH_STRIPPED of a chip that has been reset completes. -/
theorem synthStrippedAt_completes {i : Fin 10} {s : State} (scale : Byte) (clearFlag : Bool) (offset : BitVec 32)
    (h : (s.chip i).life ≠ .uninit) : ∃ t, synthStrippedAt i scale clearFlag offset s = .next t :=
  ⟨_, onInitialised_of_life i s _ h⟩

/-- Rendering leaves a chip on its channel. -/
theorem sameButRendering_chan {c d : Chip} (h : sameButRendering c d) : d.chan = c.chan := by
  unfold sameButRendering at h
  rw [h]

/-- Rendering itself leaves `LIFE` alone: the tick sets it before (44_render.md R291, R305). -/
theorem sameButRendering_life {c d : Chip} (h : sameButRendering c d) : d.life = c.life := by
  unfold sameButRendering at h
  rw [h]

theorem strippedTick_chan (extEn : Bool) (scale : Byte) (c : Chip) : (strippedTick extEn scale c).1.chan = c.chan :=
  (sameButRendering_chan (strippedTick_frame extEn scale c) :)

theorem strippedTick_life (extEn : Bool) (scale : Byte) (c : Chip) : (strippedTick extEn scale c).1.life = .active :=
  (sameButRendering_life (strippedTick_frame extEn scale c) :)

/-! ### The loop of SYNTHALL_STRIPPED (R344) -/

/-- What the turns already taken of SYNTHALL_STRIPPED, from `s` to `u`, have kept: the channels and the registry, so that
the turns to come have the scale and the clear flag they had in `s`; and all that is not theirs to write. -/
structure StrippedSoFar (offset : BitVec 32) (s u : State) : Prop where
  chan : ∀ j, (u.chip j).chan = (s.chip j).chan
  life : ∀ j, (s.chip j).life ≠ .uninit → (u.chip j).life ≠ .uninit
  unused : ∀ j, j ∉ activeChips s → u.chip j = s.chip j
  outside : sameOutsideChips s u
  ramReads : u.ramReads = s.ramReads
  traces : u.traces = s.traces
  pcm : ∀ a, (∀ i ∈ activeChips s, a ≠ 2 * pcmIndex offset (s.chip i).chan
    ∧ a ≠ 2 * pcmIndex offset (s.chip i).chan + 1) → readByte u.pcm a = readByte s.pcm a

theorem strippedSoFar_refl (offset : BitVec 32) (s : State) : StrippedSoFar offset s s where
  chan _ := rfl
  life _ h := h
  unused _ _ := rfl
  outside := ⟨rfl, rfl, rfl⟩
  ramReads := rfl
  traces := rfl
  pcm _ _ := rfl

/-- SYNTH_STRIPPED of one more chip in use keeps what the turns before it kept, whatever its scale and clear flag. -/
theorem synthStrippedAt_strippedSoFar {offset : BitVec 32} {s u t : State} {i : Fin 10} {scale : Byte} {clearFlag : Bool}
    (hi : i ∈ activeChips s) (hu : StrippedSoFar offset s u) (h : synthStrippedAt i scale clearFlag offset u = .next t) :
    StrippedSoFar offset s t := by
  simp only [synthStrippedAt, onInitialised_eq_next, Host.Outcome.next.injEq] at h
  obtain ⟨_, rfl⟩ := h
  have hchip (c : Chip) (m : Memory) (j : Fin 10) :
      ({ u.setChip i c with pcm := m } : State).chip j = if j = i then c else u.chip j := chip_setChip u i j c
  refine ⟨fun j => ?chan, fun j hj => ?life, fun j hj => ?unused, hu.outside, hu.ramReads, hu.traces, fun a ha => ?pcm⟩
  case chan =>
    rw [hchip]
    split
    · next e => rw [strippedTick_chan, e, hu.chan]
    · exact hu.chan j
  case life =>
    rw [hchip]
    split
    · simp [strippedTick_life]
    · exact hu.life j hj
  case unused =>
    have hne : j ≠ i := fun e => hj (e ▸ hi)
    rw [hchip, if_neg hne, hu.unused j hj]
  case pcm =>
    have hword := ha i hi
    rw [← hu.chan i] at hword
    rw [strippedTick_chan, readByte_pcmWrite_ne _ _ _ _ _ _ hword, hu.pcm a ha]

/-- A turn of a chip in use that was reset completes, and keeps what the turns before it kept. -/
theorem synthAllStrippedTurn_completes {offset : BitVec 32} {s u : State} {i : Fin 10} (hi : i ∈ activeChips s)
    (hlife : (s.chip i).life ≠ .uninit) (hu : StrippedSoFar offset s u) :
    ∃ t, synthAllStrippedTurn offset i u = .next t ∧ StrippedSoFar offset s t := by
  obtain ⟨t, ht⟩ := synthStrippedAt_completes (channelScale u i) (firstOnChannel u i) offset (hu.life i hlife)
  exact ⟨t, ht, synthStrippedAt_strippedSoFar hi hu ht⟩

/-- SYNTH_STRIPPED with the scale and the clear flag of the state before the loop is the chip's turn in the loop. -/
theorem exec_synthStripped_eq_turn {offset : BitVec 32} {s u : State} (hu : StrippedSoFar offset s u) (i : Fin 10) :
    exec (.synthStripped (BitVec.ofNat 8 i.val) (channelScale s i) (firstOnChannel s i) offset) u
      = synthAllStrippedTurn offset i u := by
  rw [exec_synthStripped_ofNat, synthAllStrippedTurn, channelScale_congr hu.outside.1 hu.chan,
    firstOnChannel_congr hu.chan]

end Sys2Proof.Machine

namespace Sys2Proof.Proofs

open Sys2Proof.Machine

/-- Settles O24: no turn moves a channel or the registry, so every turn has the scale and the clear flag it had before the
loop, and is the SYNTH_STRIPPED the statement lists. -/
theorem synthAllStrippedRendersEveryChip : Obligations.SynthAllStrippedRendersEveryChip := by
  intro offset s hs onChannel turns
  have hlife := (activeInitialised_iff s).mp hs
  have hcompletes : ∀ i ∈ activeChips s, ∀ u, StrippedSoFar offset s u →
      ∃ t, synthAllStrippedTurn offset i u = .next t ∧ StrippedSoFar offset s t :=
    fun i hi _ hu => synthAllStrippedTurn_completes hi (hlife i hi) hu
  have hturns : turns = (activeChips s).map fun i =>
      .synthStripped (BitVec.ofNat 8 i.val) (channelScale s i) (firstOnChannel s i) offset := by
    simp only [firstOnChannel_eq]
    rfl
  have hloop : execAll turns s = forEach (synthAllStrippedTurn offset) (activeChips s) s := by
    rw [hturns]
    exact execAll_map_eq_forEach _ (fun i _ _ hu => exec_synthStripped_eq_turn hu i) hcompletes s
      (strippedSoFar_refl offset s)
  obtain ⟨t, ht, hkept⟩ := forEach_completes (activeChips s) hcompletes s (strippedSoFar_refl offset s)
  refine ⟨t, ht, hloop.trans ht, fun j hj => hkept.unused j fun hmem => ?_, hkept.outside, hkept.ramReads, hkept.pcm,
    fun a _ => ?_⟩
  · exact Nat.not_lt.mpr hj ((mem_activeChips s j).mp hmem)
  · rw [hkept.traces]
    exact ⟨fun _ => rfl, rfl⟩

end Sys2Proof.Proofs

/-! The command word (30_encoding.md): the decoder on an assembled word, the encoder on a decoded one, and the step. -/

namespace Sys2Proof.Laws

/-! ### Decoding an assembled word (R100 to R113) -/

/-- Decoding an assembled word is decoding its four fields. -/
theorem decode_commandWord (op sel : BitVec 8) (addr : Addr) (data : BitVec 32) :
    decode (commandWord op sel addr data) = decodeFields op sel addr data := by
  simp only [decode, opOf_commandWord, selOf_commandWord, addrOf_commandWord, dataOf_commandWord]

theorem decodeFields_write (sel : BitVec 8) (addr : Addr) (data : BitVec 32) :
    decodeFields 0x01 sel addr data = decodeWrite addr (data.extractLsb' 0 8) := rfl
theorem decodeFields_read (sel : BitVec 8) (addr : Addr) (data : BitVec 32) :
    decodeFields 0x02 sel addr data = decodeRead addr := rfl
theorem decodeFields_peek (sel : BitVec 8) (addr : Addr) (data : BitVec 32) :
    decodeFields 0x03 sel addr data = decodePeek addr := rfl
theorem decodeFields_clockAll (sel : BitVec 8) (addr : Addr) (data : BitVec 32) :
    decodeFields 0x04 sel addr data = .clockAll := rfl
theorem decodeFields_synthAll (sel : BitVec 8) (addr : Addr) (data : BitVec 32) :
    decodeFields 0x05 sel addr data = .synthAll (traceEnOf addr) data := rfl
theorem decodeFields_synthAllStripped (sel : BitVec 8) (addr : Addr) (data : BitVec 32) :
    decodeFields 0x06 sel addr data = .synthAllStripped data := rfl
theorem decodeFields_resetAll (sel : BitVec 8) (addr : Addr) (data : BitVec 32) :
    decodeFields 0x07 sel addr data = .resetAll := rfl
theorem decodeFields_config (sel : BitVec 8) (addr : Addr) (data : BitVec 32) :
    decodeFields 0x08 sel addr data = decodeConfig sel addr data := rfl
theorem decodeFields_setModels (sel : BitVec 8) (addr : Addr) (data : BitVec 32) :
    decodeFields 0x09 sel addr data = .setModels (data.extractLsb' 0 10) := rfl
theorem decodeFields_digiCtrl (sel : BitVec 8) (addr : Addr) (data : BitVec 32) :
    decodeFields 0x0A sel addr data = decodeDigiCtrl sel data := rfl
theorem decodeFields_digiQuery (sel : BitVec 8) (addr : Addr) (data : BitVec 32) :
    decodeFields 0x0B sel addr data = decodeDigiQuery sel data := rfl
theorem decodeFields_clock (sel : BitVec 8) (addr : Addr) (data : BitVec 32) :
    decodeFields 0x0C sel addr data = .clock sel := rfl
theorem decodeFields_synth (sel : BitVec 8) (addr : Addr) (data : BitVec 32) :
    decodeFields 0x0D sel addr data = .synth sel (scaleOf addr) (clearFlagOf addr) (traceEnOf addr) data := rfl
theorem decodeFields_synthStripped (sel : BitVec 8) (addr : Addr) (data : BitVec 32) :
    decodeFields 0x0E sel addr data = .synthStripped sel (scaleOf addr) (clearFlagOf addr) data := rfl
theorem decodeFields_reset (sel : BitVec 8) (addr : Addr) (data : BitVec 32) :
    decodeFields 0x0F sel addr data = .reset sel := rfl

@[simp] theorem extractLsb'_byteData (val : Byte) : (byteData val).extractLsb' 0 8 = val := by
  ext j hj
  simp [byteData, BitVec.getLsbD_eq_getElem hj]
  omega

theorem decode_encodeVoiceWrite (win : BitVec 11) (v : Voice) (r : Nat) (val : Byte) :
    decode (encodeVoiceWrite win v r val) = decodeWrite (busAddr win (voiceReg v r)) val := by
  rw [encodeVoiceWrite, decode_commandWord, decodeFields_write, extractLsb'_byteData]

theorem decode_encodeFilterWrite (win : BitVec 11) (reg : BitVec 5) (val : Byte) :
    decode (encodeFilterWrite win reg val) = decodeWrite (busAddr win reg) val := by
  rw [encodeFilterWrite, decode_commandWord, decodeFields_write, extractLsb'_byteData]

theorem toNat_voiceReg (v : Voice) {r : Nat} (hr : r < 7) : (voiceReg v r).toNat = 7 * voiceIndex v + r := by
  have hv : voiceIndex v ≤ 2 := by cases v <;> decide
  rw [voiceReg, BitVec.toNat_ofNat]
  omega

@[simp] theorem voiceOfIndex_voiceIndex (v : Voice) : voiceOfIndex (voiceIndex v) = v := by cases v <;> rfl

/-- Offset `7v + r` names register `r` of voice `v`. -/
theorem voice_of_voiceReg (v : Voice) {r : Nat} (hr : r < 7) :
    (voiceReg v r).toNat ≤ 20 ∧ voiceOfIndex ((voiceReg v r).toNat / 7) = v ∧ (voiceReg v r).toNat % 7 = r := by
  have hv : voiceIndex v ≤ 2 := by cases v <;> decide
  have hdiv : (7 * voiceIndex v + r) / 7 = voiceIndex v := by omega
  rw [toNat_voiceReg v hr, hdiv]
  exact ⟨by omega, voiceOfIndex_voiceIndex v, by omega⟩

/-- A WRITE to offset `7v + r` decodes by `r` alone (R105). -/
theorem decodeWrite_voiceReg (win : BitVec 11) (v : Voice) (val : Byte) :
    decodeWrite (busAddr win (voiceReg v 0)) val = .writeFreqLo win v val
    ∧ decodeWrite (busAddr win (voiceReg v 1)) val = .writeFreqHi win v val
    ∧ decodeWrite (busAddr win (voiceReg v 2)) val = .writePwLo win v val
    ∧ decodeWrite (busAddr win (voiceReg v 3)) val = .writePwHi win v val
    ∧ decodeWrite (busAddr win (voiceReg v 4)) val = .writeWave win v val
    ∧ decodeWrite (busAddr win (voiceReg v 5)) val = .writeAd win v val
    ∧ decodeWrite (busAddr win (voiceReg v 6)) val = .writeSr win v val := by
  have hreg := fun r (hr : r < 7) => voice_of_voiceReg v hr
  refine ⟨?_, ?_, ?_, ?_, ?_, ?_, ?_⟩ <;> simp [decodeWrite, hreg]

/-- A WRITE to one of the four filter registers decodes by its offset (R105). -/
theorem decodeWrite_filterReg (win : BitVec 11) (val : Byte) :
    decodeWrite (busAddr win 0x15) val = .writeFcLo win val
    ∧ decodeWrite (busAddr win 0x16) val = .writeFcHi win val
    ∧ decodeWrite (busAddr win 0x17) val = .writeResFilt win val
    ∧ decodeWrite (busAddr win 0x18) val = .writeModeVol win val := by
  simp [decodeWrite]

/-- The two live offsets decode to the live reads (R106). -/
theorem decode_liveReg (win : BitVec 11) :
    decodeRead (busAddr win 0x1B) = .readOsc3 win ∧ decodeRead (busAddr win 0x1C) = .readEnv3 win
    ∧ decodePeek (busAddr win 0x1B) = .peekOsc3 win ∧ decodePeek (busAddr win 0x1C) = .peekEnv3 win := by
  simp [decodeRead, decodePeek]

/-- A WRITE to an unmapped offset keeps its full address (R105). -/
theorem decodeWrite_of_unmapped {addr : Addr} (h : isUnmappedReg (regOf addr) = true) (val : Byte) :
    decodeWrite addr val = .writeUnmapped addr val := by
  have hreg : 0x19 ≤ (regOf addr).toNat := by simpa [isUnmappedReg] using h
  have hvoice : ¬ (regOf addr).toNat ≤ 20 := by omega
  simp only [decodeWrite, hvoice, if_false]
  split <;> first | omega | rfl

theorem decodeRead_of_bus {addr : Addr} (h : isBusReadReg (regOf addr) = true) : decodeRead addr = .readBus addr := by
  obtain ⟨h1, h2⟩ : (regOf addr).toNat ≠ 0x1B ∧ (regOf addr).toNat ≠ 0x1C := by simpa [isBusReadReg] using h
  unfold decodeRead
  split <;> first | contradiction | rfl

theorem decodePeek_of_bus {addr : Addr} (h : isBusReadReg (regOf addr) = true) : decodePeek addr = .peekBus addr := by
  obtain ⟨h1, h2⟩ : (regOf addr).toNat ≠ 0x1B ∧ (regOf addr).toNat ≠ 0x1C := by simpa [isBusReadReg] using h
  unfold decodePeek
  split <;> first | contradiction | rfl

theorem isReservedSel_iff (sel : BitVec 8) :
    isReservedSel sel = true ↔ 4 ≤ sel.toNat ∧ ¬ (0x10 ≤ sel.toNat ∧ sel.toNat ≤ 0x19) := by
  simp only [isReservedSel, decide_eq_true_eq]

theorem isReservedOp_iff (op : BitVec 8) : isReservedOp op = true ↔ op.toNat = 0 ∨ 0x10 ≤ op.toNat := by
  simp only [isReservedOp, decide_eq_true_eq]

theorem decodeConfig_rate (addr : Addr) (data : BitVec 32) :
    decodeConfig 0x00 addr data = .configSrate data ∧ decodeConfig 0x01 addr data = .configCrate data := ⟨rfl, rfl⟩

theorem decodeConfig_flags (addr : Addr) (data : BitVec 32) :
    decodeConfig 0x02 addr data =
      .configFlags (data.getLsbD 0) (data.getLsbD 1) (data.getLsbD 2) (data.getLsbD 3) := rfl

theorem decodeConfig_count (addr : Addr) (data : BitVec 32) :
    decodeConfig 0x03 addr data = .configCount (data.extractLsb' 0 4) := rfl

/-- A reserved CONFIG selector decodes to its own command, whatever the other fields hold (R115). -/
theorem decodeConfig_of_reserved {sel : BitVec 8} (h : isReservedSel sel = true) (addr : Addr) (data : BitVec 32) :
    decodeConfig sel addr data = .configReserved sel := by
  obtain ⟨hlow, hslot⟩ := (isReservedSel_iff sel).mp h
  unfold decodeConfig
  split <;> first | omega | exact if_neg hslot

/-- The selectors 0x10 to 0x19 name a slot (R110). -/
theorem decodeConfig_of_slot {sel : BitVec 8} (h : 0x10 ≤ sel.toNat ∧ sel.toNat ≤ 0x19) (addr : Addr)
    (data : BitVec 32) :
    decodeConfig sel addr data = .configChip (Fin.ofNat 10 (sel.toNat - 0x10)) addr (data.getLsbD 0)
      (data.extractLsb' 1 2) (data.extractLsb' 3 1) := by
  unfold decodeConfig
  split <;> first | omega | exact if_pos h

/-- A reserved opcode decodes to its own command, whatever the other fields hold (R115). -/
theorem decodeFields_of_reserved {op : BitVec 8} (h : isReservedOp op = true) (sel : BitVec 8) (addr : Addr)
    (data : BitVec 32) : decodeFields op sel addr data = .reserved op := by
  have hop := (isReservedOp_iff op).mp h
  unfold decodeFields
  split <;> first | omega | rfl

/-! ### The fields of DATA and ADDR that the encoder assembles -/

@[simp] theorem scaleOf_renderAddr (scale : Byte) (clearFlag traceEn : Bool) :
    scaleOf (renderAddr scale clearFlag traceEn) = scale := by
  ext j hj
  simp only [scaleOf, renderAddr, BitVec.getElem_extractLsb', BitVec.getLsbD_append]
  simp [hj]

@[simp] theorem clearFlagOf_renderAddr (scale : Byte) (clearFlag traceEn : Bool) :
    clearFlagOf (renderAddr scale clearFlag traceEn) = clearFlag := by
  simp only [clearFlagOf, renderAddr, BitVec.getLsbD_append]
  simp

@[simp] theorem traceEnOf_renderAddr (scale : Byte) (clearFlag traceEn : Bool) :
    traceEnOf (renderAddr scale clearFlag traceEn) = traceEn := by
  simp only [traceEnOf, renderAddr, BitVec.getLsbD_append]
  simp

/-- The four flags of CONFIG FLAGS, one bit each (R110). -/
theorem getLsbD_flagsData (realFile compat extMulti extFilt : Bool) :
    (flagsData realFile compat extMulti extFilt).getLsbD 0 = realFile
    ∧ (flagsData realFile compat extMulti extFilt).getLsbD 1 = compat
    ∧ (flagsData realFile compat extMulti extFilt).getLsbD 2 = extMulti
    ∧ (flagsData realFile compat extMulti extFilt).getLsbD 3 = extFilt := by
  simp only [flagsData, BitVec.getLsbD_append]
  simp

/-- The three fields of CONFIG CHIP in DATA (R110). -/
theorem fields_slotData (m6581 : Bool) (ovr : BitVec 2) (chan : BitVec 1) :
    (slotData m6581 ovr chan).getLsbD 0 = m6581 ∧ (slotData m6581 ovr chan).extractLsb' 1 2 = ovr
    ∧ (slotData m6581 ovr chan).extractLsb' 3 1 = chan := by
  revert m6581 ovr chan
  decide

/-- A field in the low bits of DATA reads back. -/
theorem extractLsb'_setWidth_self {n : Nat} (x : BitVec n) (h : n ≤ 32) :
    (x.setWidth 32).extractLsb' 0 n = x := by
  ext j hj
  simp [hj]
  omega

/-- The selector of slot `i` names slot `i` (R110). -/
theorem slot_of_selector (slot : Fin 10) :
    let sel := BitVec.ofNat 8 (0x10 + slot.val)
    (0x10 ≤ sel.toNat ∧ sel.toNat ≤ 0x19) ∧ Fin.ofNat 10 (sel.toNat - 0x10) = slot := by
  revert slot
  decide

/-- What the encoder writes for a well-formed command decodes to that command. -/
theorem decode_encode (i : Instr) (hi : i.wellFormed = true) : decode (encode i) = i := by
  cases i with
  | writeFreqLo win v val | writeFreqHi win v val | writePwLo win v val | writePwHi win v val | writeWave win v val
  | writeAd win v val | writeSr win v val =>
    simp only [encode, decode_encodeVoiceWrite, decodeWrite_voiceReg]
  | writeFcLo win val | writeFcHi win val | writeResFilt win val | writeModeVol win val =>
    simp only [encode, decode_encodeFilterWrite, decodeWrite_filterReg]
  | writeUnmapped addr val =>
    simpa only [encode, decode_commandWord, decodeFields_write, extractLsb'_byteData] using
      decodeWrite_of_unmapped hi val
  | readBus addr =>
    simpa only [encode, decode_commandWord, decodeFields_read] using decodeRead_of_bus hi
  | peekBus addr =>
    simpa only [encode, decode_commandWord, decodeFields_peek] using decodePeek_of_bus hi
  | readOsc3 win | readEnv3 win | peekOsc3 win | peekEnv3 win =>
    simp only [encode, decode_commandWord, decodeFields_read, decodeFields_peek, decode_liveReg]
  | clockAll | resetAll | synthAllStripped offset | clock c | reset c =>
    simp only [encode, decode_commandWord, decodeFields_clockAll, decodeFields_resetAll, decodeFields_synthAllStripped,
      decodeFields_clock, decodeFields_reset]
  | synthAll traceEn offset =>
    simp only [encode, decode_commandWord, decodeFields_synthAll, traceEnOf_renderAddr]
  | synth c scale clearFlag traceEn offset =>
    simp only [encode, decode_commandWord, decodeFields_synth, scaleOf_renderAddr, clearFlagOf_renderAddr,
      traceEnOf_renderAddr]
  | synthStripped c scale clearFlag offset =>
    simp only [encode, decode_commandWord, decodeFields_synthStripped, scaleOf_renderAddr, clearFlagOf_renderAddr]
  | configSrate n | configCrate n =>
    simp only [encode, decode_commandWord, decodeFields_config, decodeConfig_rate]
  | configFlags realFile compat extMulti extFilt =>
    simp only [encode, decode_commandWord, decodeFields_config, decodeConfig_flags, getLsbD_flagsData]
  | configCount n =>
    simp only [encode, decode_commandWord, decodeFields_config, decodeConfig_count]
    rw [extractLsb'_setWidth_self n (by decide)]
  | configChip slot base m6581 ovr chan =>
    obtain ⟨hsel, hslot⟩ := slot_of_selector slot
    rw [encode, decode_commandWord, decodeFields_config, decodeConfig_of_slot hsel, hslot]
    simp only [fields_slotData]
  | configReserved sel =>
    simpa only [encode, decode_commandWord, decodeFields_config] using decodeConfig_of_reserved hi 0 0
  | setModels bits =>
    simp only [encode, decode_commandWord, decodeFields_setModels]
    rw [extractLsb'_setWidth_self bits (by decide)]
  | digiCtrlResetCount c | digiCtrlDisable c | digiCtrlEnable c | digiCtrlReset c =>
    simp only [encode, decode_commandWord, decodeFields_digiCtrl]
    rfl
  | digiQueryType c | digiQueryRate c | digiQueryDesc c | digiQueryReserved c =>
    simp only [encode, decode_commandWord, decodeFields_digiQuery]
    rfl
  | reserved op => simpa only [encode, decode_commandWord] using decodeFields_of_reserved hi 0 0 0

end Sys2Proof.Laws

namespace Sys2Proof.Laws

/-! ### Encoding a decoded word (R115) -/

/-- Register `n mod 7` of voice `n div 7` is offset `n` (R105). -/
theorem voiceReg_of_offset {reg : BitVec 5} (h : reg.toNat ≤ 20) :
    voiceReg (voiceOfIndex (reg.toNat / 7)) (reg.toNat % 7) = reg := by
  revert reg
  decide

/-- Encoding a decoded WRITE gives back the address and the byte. -/
theorem encode_decodeWrite (addr : Addr) (val : Byte) :
    encode (decodeWrite addr val) = commandWord 0x01 0 addr (byteData val) := by
  have hwin : ∀ reg, regOf addr = reg → busAddr (winOf addr) reg = addr := by
    rintro _ rfl
    exact busAddr_winOf_regOf addr
  have hfilter : ∀ reg : BitVec 5, (regOf addr).toNat = reg.toNat →
      encodeFilterWrite (winOf addr) reg val = commandWord 0x01 0 addr (byteData val) := by
    intro reg h
    rw [encodeFilterWrite, hwin reg (BitVec.eq_of_toNat_eq h)]
  unfold decodeWrite
  dsimp only
  split
  · next hvoice =>
    have hr : (regOf addr).toNat % 7 < 7 := Nat.mod_lt _ (by decide)
    have henc : encodeVoiceWrite (winOf addr) (voiceOfIndex ((regOf addr).toNat / 7)) ((regOf addr).toNat % 7) val
        = commandWord 0x01 0 addr (byteData val) := by
      rw [encodeVoiceWrite, voiceReg_of_offset hvoice, busAddr_winOf_regOf]
    split
    case h_7 =>
      simp only [imp_false] at *
      have h6 : (regOf addr).toNat % 7 = 6 := by omega
      rw [h6] at henc
      exact henc
    all_goals
      next hreg =>
        rw [hreg] at henc
        exact henc
  · split
    case h_5 => rfl
    all_goals
      next hreg => exact hfilter _ hreg

/-- Encoding a decoded READ gives back the address. -/
theorem encode_decodeRead (addr : Addr) : encode (decodeRead addr) = commandWord 0x02 0 addr 0 := by
  have hwin : ∀ reg : BitVec 5, (regOf addr).toNat = reg.toNat → busAddr (winOf addr) reg = addr := by
    intro reg h
    rw [← BitVec.eq_of_toNat_eq h, busAddr_winOf_regOf]
  unfold decodeRead
  split <;> rename_i hreg
  · rw [encode, hwin 0x1B hreg]
  · rw [encode, hwin 0x1C hreg]
  · rfl

/-- Encoding a decoded PEEK gives back the address. -/
theorem encode_decodePeek (addr : Addr) : encode (decodePeek addr) = commandWord 0x03 0 addr 0 := by
  have hwin : ∀ reg : BitVec 5, (regOf addr).toNat = reg.toNat → busAddr (winOf addr) reg = addr := by
    intro reg h
    rw [← BitVec.eq_of_toNat_eq h, busAddr_winOf_regOf]
  unfold decodePeek
  split <;> rename_i hreg
  · rw [encode, hwin 0x1B hreg]
  · rw [encode, hwin 0x1C hreg]
  · rfl

/-- Encoding a decoded DIGI_CTRL gives back the selector and the two bits of the sub-operation. -/
theorem encode_decodeDigiCtrl (sel : BitVec 8) (data : BitVec 32) :
    encode (decodeDigiCtrl sel data) = commandWord 0x0A sel 0 ((data.extractLsb' 0 2).setWidth 32) := by
  unfold decodeDigiCtrl
  generalize data.extractLsb' 0 2 = sub
  match sub with
  | 0#2 | 1#2 | 2#2 | 3#2 => rfl

/-- Encoding a decoded DIGI_QUERY gives back the selector and the two bits of the sub-operation. -/
theorem encode_decodeDigiQuery (sel : BitVec 8) (data : BitVec 32) :
    encode (decodeDigiQuery sel data) = commandWord 0x0B sel 0 ((data.extractLsb' 0 2).setWidth 32) := by
  unfold decodeDigiQuery
  generalize data.extractLsb' 0 2 = sub
  match sub with
  | 0#2 | 1#2 | 2#2 | 3#2 => rfl

/-- The flags of CONFIG FLAGS, decoded and assembled again, are bits 3 to 0. -/
theorem extractLsb'_flagsData (data : BitVec 32) :
    (flagsData (data.getLsbD 0) (data.getLsbD 1) (data.getLsbD 2) (data.getLsbD 3)).extractLsb' 0 4
      = data.extractLsb' 0 4 := by
  ext j hj
  obtain ⟨h0, h1, h2, h3⟩ := getLsbD_flagsData (data.getLsbD 0) (data.getLsbD 1) (data.getLsbD 2) (data.getLsbD 3)
  simp only [BitVec.getElem_extractLsb', Nat.zero_add]
  match j, hj with
  | 0, _ => exact h0
  | 1, _ => exact h1
  | 2, _ => exact h2
  | 3, _ => exact h3

/-- The fields of CONFIG CHIP in DATA, decoded and assembled again, are bits 3 to 0. -/
theorem extractLsb'_slotData (data : BitVec 32) :
    (slotData (data.getLsbD 0) (data.extractLsb' 1 2) (data.extractLsb' 3 1)).extractLsb' 0 4
      = data.extractLsb' 0 4 := by
  ext j hj
  simp only [slotData, BitVec.getElem_extractLsb', BitVec.getLsbD_append, Nat.zero_add]
  match j, hj with
  | 0, _ => simp
  | 1, _ => simp
  | 2, _ => simp
  | 3, _ => simp

/-- The parts of a render command's ADDR, decoded and assembled again, are its bits 9 to 0. -/
theorem extractLsb'_renderAddr (addr : Addr) :
    (renderAddr (scaleOf addr) (clearFlagOf addr) (traceEnOf addr)).extractLsb' 0 10 = addr.extractLsb' 0 10 := by
  ext j hj
  simp only [renderAddr, BitVec.getElem_extractLsb', BitVec.getLsbD_append, Nat.zero_add]
  obtain hlow | rfl | rfl : j < 8 ∨ j = 8 ∨ j = 9 := by omega
  · simp [hlow, scaleOf]
  · simp [clearFlagOf]
  · simp [traceEnOf]

/-- Without the trace flag they are bits 8 to 0. -/
theorem extractLsb'_renderAddr_untraced (addr : Addr) :
    (renderAddr (scaleOf addr) (clearFlagOf addr) false).extractLsb' 0 9 = addr.extractLsb' 0 9 := by
  ext j hj
  simp only [renderAddr, BitVec.getElem_extractLsb', BitVec.getLsbD_append, Nat.zero_add]
  obtain hlow | rfl : j < 8 ∨ j = 8 := by omega
  · simp [hlow, scaleOf]
  · simp [clearFlagOf]

/-- Bits of DATA kept as a number of their own width are kept in the assembled word. -/
theorem extractLsb'_setWidth_extractLsb' (data : BitVec 32) {n : Nat} (h : n ≤ 32) :
    ((data.extractLsb' 0 n).setWidth 32).extractLsb' 0 n = data.extractLsb' 0 n :=
  extractLsb'_setWidth_self _ h

/-- The selector of the slot that a selector names is that selector (R110). -/
theorem selector_of_slot {sel : BitVec 8} (h : 0x10 ≤ sel.toNat ∧ sel.toNat ≤ 0x19) :
    BitVec.ofNat 8 (0x10 + (Fin.ofNat 10 (sel.toNat - 0x10)).val) = sel := by
  apply BitVec.eq_of_toNat_eq
  simp only [Fin.ofNat, BitVec.toNat_ofNat]
  omega

/-- Encoding a decoded CONFIG gives back the selector, of whatever kind it is. -/
theorem selOf_encode_decodeConfig (sel : BitVec 8) (addr : Addr) (data : BitVec 32) :
    selOf (encode (decodeConfig sel addr data)) = sel := by
  have hsel : ∀ k : BitVec 8, sel.toNat = k.toNat → k = sel := fun k h => (BitVec.eq_of_toNat_eq h).symm
  unfold decodeConfig
  split
  case h_5 =>
    split
    · next hslot => rw [encode, selOf_commandWord, selector_of_slot hslot]
    · exact selOf_commandWord _ _ _ _
  all_goals
    next h => exact (selOf_commandWord _ _ _ _).trans (hsel _ h)

/-- Encoding a decoded CONFIG CHIP gives back the address. -/
theorem encode_decodeConfig_of_slot {sel : BitVec 8} (h : 0x10 ≤ sel.toNat ∧ sel.toNat ≤ 0x19) (addr : Addr)
    (data : BitVec 32) :
    encode (decodeConfig sel addr data)
      = commandWord 0x08 sel addr (slotData (data.getLsbD 0) (data.extractLsb' 1 2) (data.extractLsb' 3 1)) := by
  rw [decodeConfig_of_slot h, encode, selector_of_slot h]

/-! ### Words that agree in their low bits -/

theorem getLsbD_of_extractLsb'_eq {w n k : Nat} {x y : BitVec w} (h : x.extractLsb' 0 n = y.extractLsb' 0 n)
    (hk : k < n) : x.getLsbD k = y.getLsbD k := by
  have hbit := congrArg (fun z => z.getLsbD k) h
  simpa [hk] using hbit

theorem extractLsb'_of_extractLsb'_eq {w n start len : Nat} {x y : BitVec w}
    (h : x.extractLsb' 0 n = y.extractLsb' 0 n) (hle : start + len ≤ n) :
    x.extractLsb' start len = y.extractLsb' start len := by
  ext j hj
  simp only [BitVec.getElem_extractLsb']
  exact getLsbD_of_extractLsb'_eq h (by omega)

/-! ### The rows of the opcode map (R102, R115) -/

theorem opOf_encode (i : Instr) : opOf (encode i) = rowOpcode i := by
  cases i <;> exact opOf_commandWord _ _ _ _

theorem decodeWrite_row (addr : Addr) (val : Byte) :
    rowOpcode (decodeWrite addr val) = 0x01 ∧ (decodeWrite addr val).wellFormed = true := by
  unfold decodeWrite
  dsimp only
  split
  · split <;> exact ⟨rfl, rfl⟩
  · split
    case h_5 =>
      simp only [imp_false] at *
      exact ⟨rfl, decide_eq_true (by omega)⟩
    all_goals exact ⟨rfl, rfl⟩

theorem decodeRead_row (addr : Addr) :
    rowOpcode (decodeRead addr) = 0x02 ∧ (decodeRead addr).wellFormed = true := by
  unfold decodeRead
  split
  case h_3 hosc henv => exact ⟨rfl, decide_eq_true ⟨hosc, henv⟩⟩
  all_goals exact ⟨rfl, rfl⟩

theorem decodePeek_row (addr : Addr) :
    rowOpcode (decodePeek addr) = 0x03 ∧ (decodePeek addr).wellFormed = true := by
  unfold decodePeek
  split
  case h_3 hosc henv => exact ⟨rfl, decide_eq_true ⟨hosc, henv⟩⟩
  all_goals exact ⟨rfl, rfl⟩

theorem decodeConfig_row (sel : BitVec 8) (addr : Addr) (data : BitVec 32) :
    rowOpcode (decodeConfig sel addr data) = 0x08 ∧ (decodeConfig sel addr data).wellFormed = true := by
  unfold decodeConfig
  split
  case h_5 =>
    simp only [imp_false] at *
    split
    · exact ⟨rfl, rfl⟩
    · next hslot => exact ⟨rfl, (isReservedSel_iff sel).mpr ⟨by omega, hslot⟩⟩
  all_goals exact ⟨rfl, rfl⟩

theorem decodeDigiCtrl_row (sel : BitVec 8) (data : BitVec 32) :
    rowOpcode (decodeDigiCtrl sel data) = 0x0A ∧ (decodeDigiCtrl sel data).wellFormed = true := by
  unfold decodeDigiCtrl
  split <;> exact ⟨rfl, rfl⟩

theorem decodeDigiQuery_row (sel : BitVec 8) (data : BitVec 32) :
    rowOpcode (decodeDigiQuery sel data) = 0x0B ∧ (decodeDigiQuery sel data).wellFormed = true := by
  unfold decodeDigiQuery
  split <;> exact ⟨rfl, rfl⟩

/-- Every opcode decodes to a well-formed command of its own row. -/
theorem decodeFields_row (op sel : BitVec 8) (addr : Addr) (data : BitVec 32) :
    rowOpcode (decodeFields op sel addr data) = op ∧ (decodeFields op sel addr data).wellFormed = true := by
  have hop : ∀ k : BitVec 8, op.toNat = k.toNat → k = op := fun k h => (BitVec.eq_of_toNat_eq h).symm
  unfold decodeFields
  split
  case h_1 h => exact hop 0x01 h ▸ decodeWrite_row _ _
  case h_2 h => exact hop 0x02 h ▸ decodeRead_row _
  case h_3 h => exact hop 0x03 h ▸ decodePeek_row _
  case h_8 h => exact hop 0x08 h ▸ decodeConfig_row _ _ _
  case h_10 h => exact hop 0x0A h ▸ decodeDigiCtrl_row _ _
  case h_11 h => exact hop 0x0B h ▸ decodeDigiQuery_row _ _
  case h_16 =>
    simp only [imp_false] at *
    exact ⟨rfl, (isReservedOp_iff op).mpr (by omega)⟩
  all_goals
    next h => exact ⟨hop _ h, rfl⟩

end Sys2Proof.Laws

namespace Sys2Proof.Proofs

open Sys2Proof.Machine Sys2Proof.Laws

/-- Settles O3, by the fields of the assembled word and the decoder's equation for each row. -/
theorem decodeEncodeRoundTrip : Obligations.DecodeEncodeRoundTrip := decode_encode

/-- Settles O1: `step` is that definition, with the command named. -/
theorem stepRunsDecodedCommand : Obligations.StepRunsDecodedCommand := by
  refine ⟨fun s w rest i hport hdecode _ => ?waiting, fun s hport => ?empty⟩
  case waiting =>
    unfold step
    rw [hport]
    simp only [hdecode]
  case empty =>
    unfold step
    rw [hport]

/-- Settles O2: the placed word is the oldest, and decodes to the command it encodes (O3). -/
theorem placedCommandRunsNext : Obligations.PlacedCommandRunsNext := by
  intro i s nbits hi
  have hport : (s.withFetchWord nbits (encode i).toNat).port = encode i :: s.port := by
    simp [State.withFetchWord]
  exact stepRunsDecodedCommand.1 _ _ _ i hport (decode_encode i hi) hi

/-- Settles O4: encoding a decoded word gives back, row by row, the word with the unused fields 0. -/
theorem everyWordDecodesWellFormed : Obligations.EveryWordDecodesWellFormed := by
  intro w op sel again keepsSel keepsAddr keepsData
  obtain ⟨hrow, hwf⟩ := decodeFields_row op sel (addrOf w) (dataOf w)
  have hagain : ∀ {k i}, op = k → decodeFields k sel (addrOf w) (dataOf w) = i → again = encode i := by
    rintro _ _ rfl rfl
    rfl
  refine ⟨hwf, (opOf_encode _).trans hrow, fun h => ?reserved, fun h => ?write, ?read, fun h => ?synthAll,
    fun h => ?synthAllStripped, fun h => ?config, fun h => ?setModels, ?digi, ?perChip, fun h => ?synth,
    fun h => ?synthStripped⟩
  case reserved => exact decodeFields_of_reserved ((isReservedOp_iff op).mpr h) _ _ _
  case write =>
    have he := (hagain h (decodeFields_write _ _ _)).trans (encode_decodeWrite _ _)
    simp [keepsAddr, keepsData, he]
  case read =>
    rintro (h | h)
    · have he := (hagain h (decodeFields_read _ _ _)).trans (encode_decodeRead _)
      simp [keepsAddr, he]
    · have he := (hagain h (decodeFields_peek _ _ _)).trans (encode_decodePeek _)
      simp [keepsAddr, he]
  case synthAll =>
    have he := hagain h (decodeFields_synthAll _ _ _)
    have htrace : (renderAddr 0 false (traceEnOf (addrOf w))).getLsbD 9 = (addrOf w).getLsbD 9 :=
      traceEnOf_renderAddr 0 false _
    rw [he, encode, addrOf_commandWord]
    exact ⟨htrace, by simp [keepsData, he, encode]⟩
  case synthAllStripped =>
    have he := hagain h (decodeFields_synthAllStripped _ _ _)
    simp [keepsData, he, encode]
  case config =>
    have hconfig := hagain h (decodeFields_config _ _ _)
    have hreserved : isReservedSel sel = true → decode w = .configReserved sel := fun hsel => by
      have hdecode : decode w = decodeFields 0x08 sel (addrOf w) (dataOf w) := by rw [← h]; rfl
      rw [hdecode, decodeFields_config, decodeConfig_of_reserved hsel]
    refine ⟨?_, ?rate, ?low, fun hslot => ?slot, fun hsel => hreserved ((isReservedSel_iff sel).mpr (by omega))⟩
    · exact (congrArg selOf hconfig).trans (selOf_encode_decodeConfig _ _ _)
    case rate =>
      rintro (hsel | hsel) <;> simp only [hsel, decodeConfig_rate] at hconfig <;> simp [keepsData, hconfig, encode]
    case low =>
      rintro (hsel | hsel)
      · simp only [hsel, decodeConfig_flags] at hconfig
        simpa only [keepsData, hconfig, encode, dataOf_commandWord] using extractLsb'_flagsData (dataOf w)
      · simp only [hsel, decodeConfig_count] at hconfig
        simpa only [keepsData, hconfig, encode, dataOf_commandWord] using
          extractLsb'_setWidth_extractLsb' (dataOf w) (by decide : 4 ≤ 32)
    case slot =>
      have he := hconfig.trans (encode_decodeConfig_of_slot hslot _ _)
      simpa only [keepsAddr, keepsData, he, addrOf_commandWord, dataOf_commandWord, true_and] using
        extractLsb'_slotData (dataOf w)
  case setModels =>
    have he := hagain h (decodeFields_setModels _ _ _)
    simpa [keepsData, he, encode] using extractLsb'_setWidth_extractLsb' (dataOf w) (by decide : 10 ≤ 32)
  case digi =>
    have hsub := extractLsb'_setWidth_extractLsb' (dataOf w) (by decide : 2 ≤ 32)
    rintro (h | h)
    · have he := (hagain h (decodeFields_digiCtrl _ _ _)).trans (encode_decodeDigiCtrl _ _)
      simpa [keepsSel, keepsData, he] using hsub
    · have he := (hagain h (decodeFields_digiQuery _ _ _)).trans (encode_decodeDigiQuery _ _)
      simpa [keepsSel, keepsData, he] using hsub
  case perChip =>
    rintro (h | h)
    · simp [keepsSel, hagain h (decodeFields_clock _ _ _), encode]
    · simp [keepsSel, hagain h (decodeFields_reset _ _ _), encode]
  case synth =>
    have he := hagain h (decodeFields_synth _ _ _)
    simpa [keepsSel, keepsAddr, keepsData, he, encode] using extractLsb'_renderAddr (addrOf w)
  case synthStripped =>
    have he := hagain h (decodeFields_synthStripped _ _ _)
    simpa [keepsSel, keepsAddr, keepsData, he, encode] using extractLsb'_renderAddr_untraced (addrOf w)

/-- Settles O5: each row of the opcode map reads only the fields that the statement holds equal. -/
theorem unusedFieldsAreIgnored : Obligations.UnusedFieldsAreIgnored := by
  intro sel sel' addr addr' data data'
  refine ⟨fun h => ?write, rfl, rfl, rfl, fun h => ?synthAll, rfl, rfl, ?rate, ?low, fun hslot h => ?slot,
    fun hsel => ?reservedSel, fun h => ?setModels, fun h => ?digi, rfl, fun h => ?synth, fun h => ?synthStripped, rfl,
    fun op hop => ?reservedOp⟩
  case write => rw [decodeFields_write, decodeFields_write, h]
  case synthAll => exact congrArg (Instr.synthAll · data) h
  case rate => rintro (rfl | rfl) <;> rfl
  case low =>
    have hbit := fun {k} (hk : k < 4) (h : data.extractLsb' 0 4 = data'.extractLsb' 0 4) =>
      getLsbD_of_extractLsb'_eq h hk
    rintro (rfl | rfl) h
    · rw [decodeFields_config, decodeFields_config, decodeConfig_flags, decodeConfig_flags, hbit (by decide) h,
        hbit (k := 1) (by decide) h, hbit (k := 2) (by decide) h, hbit (k := 3) (by decide) h]
    · rw [decodeFields_config, decodeFields_config, decodeConfig_count, decodeConfig_count, h]
  case slot =>
    have hbit : data.getLsbD 0 = data'.getLsbD 0 := getLsbD_of_extractLsb'_eq h (by decide)
    have hovr : data.extractLsb' 1 2 = data'.extractLsb' 1 2 := extractLsb'_of_extractLsb'_eq h (by decide)
    have hchan : data.extractLsb' 3 1 = data'.extractLsb' 3 1 := extractLsb'_of_extractLsb'_eq h (by decide)
    rw [decodeFields_config, decodeFields_config, decodeConfig_of_slot hslot, decodeConfig_of_slot hslot, hbit, hovr,
      hchan]
  case reservedSel =>
    have hres : isReservedSel sel = true := (isReservedSel_iff sel).mpr (by omega)
    rw [decodeFields_config, decodeFields_config, decodeConfig_of_reserved hres, decodeConfig_of_reserved hres]
  case setModels => rw [decodeFields_setModels, decodeFields_setModels, h]
  case digi =>
    simp only [decodeFields_digiCtrl, decodeFields_digiQuery, decodeDigiCtrl, decodeDigiQuery, h]
    exact ⟨trivial, trivial⟩
  case synth =>
    have hscale : scaleOf addr = scaleOf addr' := extractLsb'_of_extractLsb'_eq h (by decide)
    have hclear : clearFlagOf addr = clearFlagOf addr' := getLsbD_of_extractLsb'_eq h (by decide)
    have htrace : traceEnOf addr = traceEnOf addr' := getLsbD_of_extractLsb'_eq h (by decide)
    rw [decodeFields_synth, decodeFields_synth, hscale, hclear, htrace]
  case synthStripped =>
    have hscale : scaleOf addr = scaleOf addr' := extractLsb'_of_extractLsb'_eq h (by decide)
    have hclear : clearFlagOf addr = clearFlagOf addr' := getLsbD_of_extractLsb'_eq h (by decide)
    rw [decodeFields_synthStripped, decodeFields_synthStripped, hscale, hclear]
  case reservedOp =>
    have hres : isReservedOp op = true := (isReservedOp_iff op).mpr hop
    rw [decodeFields_of_reserved hres, decodeFields_of_reserved hres]

/-- Settles O6: each word is decoded by evaluation. -/
theorem writtenOutWordsDecode : Obligations.WrittenOutWordsDecode := by
  unfold Obligations.WrittenOutWordsDecode
  decide

/-- Settles O7: a reserved command is `.next s`, and a selector from 10 up names no chip. -/
theorem reservedEncodingsDoNothing : Obligations.ReservedEncodingsDoNothing := by
  intro s c scale clearFlag traceEn offset op sel
  refine ⟨rfl, rfl, fun h => ?_⟩
  have hc : chipIndex c = none := (chipIndex_eq_none c).mpr h
  have hctrl : ∀ f, digiCtrl c s f = .next s := fun f => onChip_of_absent c s _ _ hc
  have hquery : ∀ f, digiQuery c s f = .next { s with responses := s.responses ++ [0] } :=
    fun f => onChip_of_absent c s _ _ hc
  refine ⟨?_, ?_, ?_, ?_, hctrl _, hctrl _, hctrl _, hctrl _, hquery (fun d => digiTypeCode d.type), hquery digiRate,
    hquery (fun d => digiTypeCode d.type), hquery fun _ => 0⟩
  · simp only [exec, execClock, hc]
  · simp only [exec, execSynth, hc]
  · simp only [exec, execSynthStripped, hc]
  · simp only [exec, execReset, hc]

end Sys2Proof.Proofs

/-! Invariants of a step: what each move of a chip keeps, through the moves of `ChipMove` grouped by what they write. -/

namespace Sys2Proof.Machine

/-! ### The rule of the register a WRITE names (40_register_access.md R135 to R149) -/

/-- A register's rule writes the shadow, the volume, the collaborators and the filter, and keeps zero histories of a
disabled filter. -/
structure RegisterRule (poke : Chip → Chip) : Prop where
  frame : ∀ d, poke d =
    { d with regs := (poke d).regs, vol := (poke d).vol, osc := (poke d).osc, env := (poke d).env,
             filter := (poke d).filter }
  flushed : ∀ d, d.historyFlushed → (poke d).historyFlushed

/-- A rule that leaves the filter alone. -/
theorem registerRule_of_filter {poke : Chip → Chip}
    (h : ∀ d, poke d = { d with regs := (poke d).regs, osc := (poke d).osc, env := (poke d).env }) :
    RegisterRule poke := by
  refine ⟨fun d => ?_, fun d hd => ?_⟩
  · rw [h d]
  · rw [h d]
    exact hd

theorem pokeMode_flushed (val : Byte) (f : Filter) (h : modesOff (pokeMode val f) = true) :
    (pokeMode val f).fh = zeroHist ∧ (pokeMode val f).fs = perVoice zeroHist := by
  have hmodes : modesOff (setModeBits val f) = true := by
    unfold pokeMode at h
    dsimp only at h
    split at h
    · next hoff => exact hoff
    · exact h
  unfold pokeMode
  rw [if_pos hmodes]
  exact ⟨rfl, rfl⟩

theorem registerRule_pokeFreqLo (v : Voice) (val : Byte) : RegisterRule (pokeFreqLo v val) :=
  registerRule_of_filter fun _ => rfl
theorem registerRule_pokeFreqHi (v : Voice) (val : Byte) : RegisterRule (pokeFreqHi v val) :=
  registerRule_of_filter fun _ => rfl
theorem registerRule_pokePwLo (v : Voice) (val : Byte) : RegisterRule (pokePwLo v val) :=
  registerRule_of_filter fun _ => rfl
theorem registerRule_pokePwHi (v : Voice) (val : Byte) : RegisterRule (pokePwHi v val) :=
  registerRule_of_filter fun _ => rfl
theorem registerRule_pokeWave (v : Voice) (val : Byte) : RegisterRule (pokeWave v val) :=
  registerRule_of_filter fun _ => rfl
theorem registerRule_pokeAd (v : Voice) (val : Byte) : RegisterRule (pokeAd v val) :=
  registerRule_of_filter fun _ => rfl
theorem registerRule_pokeSr (v : Voice) (val : Byte) : RegisterRule (pokeSr v val) :=
  registerRule_of_filter fun _ => rfl
theorem registerRule_pokeFcLo (val : Byte) : RegisterRule (filterPoke (pokeFcLo val)) :=
  ⟨fun _ => rfl, fun _ h => h⟩
theorem registerRule_pokeFcHi (val : Byte) : RegisterRule (filterPoke (pokeFcHi val)) :=
  ⟨fun _ => rfl, fun _ h => h⟩
theorem registerRule_pokeResFilt (val : Byte) : RegisterRule (filterPoke (pokeResFilt val)) :=
  ⟨fun _ => rfl, fun _ h => h⟩
theorem registerRule_pokeModeVol (val : Byte) : RegisterRule (pokeModeVol val) :=
  ⟨fun _ => rfl, fun _ _ => pokeMode_flushed val _⟩
theorem registerRule_pokeUnmapped : RegisterRule pokeUnmapped :=
  ⟨fun _ => rfl, fun _ h => h⟩

/-! ### The moves of a chip, grouped -/

/-- A property that a WRITE by any register's rule and each other kind of move keeps, every move keeps. -/
theorem chipMove_keeps {P : Fin 10 → Chip → Prop}
    (hwrite : ∀ i a val poke c, RegisterRule poke → c.life ≠ .uninit → P i c → P i (writeChip a val poke c))
    (hclock : ∀ i c, c.life ≠ .uninit → P i c → P i (clockChip c))
    (hrender : ∀ i extEn traceEn scale reads c, c.life ≠ .uninit → P i c →
      P i (synthTick extEn traceEn scale reads c).chip)
    (hstripped : ∀ i extEn scale c, c.life ≠ .uninit → P i c → P i (strippedTick extEn scale c).1)
    (hcount : ∀ i c, P i c → P i (resetCount c)) (hdisable : ∀ i c, P i c → P i (disableDetector c))
    (henable : ∀ i c, P i c → P i (enableDetector c)) (hdetector : ∀ i c, P i c → P i (detectorReset c))
    (hmodel : ∀ i m c, P i c → P i (setModel m c))
    (hreset : ∀ i a, a.srate ≠ 0 → a.crate ≠ 0 → (i = 0 → a.addr = chip0Base) → P i (resetChip a))
    (i : Fin 10) (c d : Chip) (h : ChipMove i c d) (hc : P i c) : P i d := by
  cases h with
  | freqLo a v val hl => exact hwrite _ _ _ _ _ (registerRule_pokeFreqLo v val) hl hc
  | freqHi a v val hl => exact hwrite _ _ _ _ _ (registerRule_pokeFreqHi v val) hl hc
  | pwLo a v val hl => exact hwrite _ _ _ _ _ (registerRule_pokePwLo v val) hl hc
  | pwHi a v val hl => exact hwrite _ _ _ _ _ (registerRule_pokePwHi v val) hl hc
  | wave a v val hl => exact hwrite _ _ _ _ _ (registerRule_pokeWave v val) hl hc
  | ad a v val hl => exact hwrite _ _ _ _ _ (registerRule_pokeAd v val) hl hc
  | sr a v val hl => exact hwrite _ _ _ _ _ (registerRule_pokeSr v val) hl hc
  | fcLo a val hl => exact hwrite _ _ _ _ _ (registerRule_pokeFcLo val) hl hc
  | fcHi a val hl => exact hwrite _ _ _ _ _ (registerRule_pokeFcHi val) hl hc
  | resFilt a val hl => exact hwrite _ _ _ _ _ (registerRule_pokeResFilt val) hl hc
  | modeVol a val hl => exact hwrite _ _ _ _ _ (registerRule_pokeModeVol val) hl hc
  | unmapped a val hl => exact hwrite _ _ _ _ _ registerRule_pokeUnmapped hl hc
  | clocked hl => exact hclock _ _ hl hc
  | rendered extEn traceEn scale reads hl => exact hrender _ _ _ _ _ _ hl hc
  | stripped extEn scale hl => exact hstripped _ _ _ _ hl hc
  | countReset => exact hcount _ _ hc
  | disabled => exact hdisable _ _ hc
  | enabled => exact henable _ _ hc
  | detReset => exact hdetector _ _ hc
  | modelSet m => exact hmodel _ _ _ hc
  | reset a hs hr h0 => exact hreset _ _ hs hr h0

/-- What a WRITE leaves of a chip outside the registers its rule writes: `LIFE`, the bus latch, and the detector and the
mutes as the detection leaves them. -/
theorem writeChip_outside_registers (a : Addr) (val : Byte) {poke : Chip → Chip} (hp : RegisterRule poke) (c : Chip) :
    writeChip a val poke c =
      let d := (detectSample a val { c with life := .active }).1
      let e := writeChip a val poke c
      { c with life := .active, bus := val, det := d.det, mute := d.mute, regs := e.regs, vol := e.vol, osc := e.osc,
               env := e.env, filter := e.filter } := by
  have hw := writeChip_eq a val poke c
  dsimp only at hw ⊢
  rw [hw]
  exact hp.frame _

end Sys2Proof.Machine

namespace Sys2Proof.Machine

/-! ### What rendering does to the detector (44_render.md R291, R305) -/

theorem sameButRendering_mute {c d : Chip} (h : sameButRendering c d) : d.mute = c.mute := by
  unfold sameButRendering at h
  rw [h]

theorem sameButRendering_realFile {c d : Chip} (h : sameButRendering c d) : d.realFile = c.realFile := by
  unfold sameButRendering at h
  rw [h]

@[simp] theorem renderVoice_det (scale : Byte) (traceEn : Bool) (k : Tick) (v : Voice) :
    (renderVoice scale traceEn k v).chip.det = k.chip.det :=
  (renderVoice_keeps scale traceEn k v).2.2.1

@[simp] theorem renderVoices_det (scale : Byte) (traceEn : Bool) (c : Chip) :
    (renderVoices scale traceEn c).chip.det = c.det := by
  simp only [renderVoices, List.foldl_cons, List.foldl_nil, renderVoice_det]

@[simp] theorem outputState_det (c : Chip) (sm : Sums) : (outputState c sm).det = c.det := by
  unfold outputState
  split <;> rfl

@[simp] theorem extState_det (extEn : Bool) (c : Chip) (m : Int) : (extState extEn c m).det = c.det := by
  unfold extState
  split <;> rfl

/-- The player's tick looks at the detector and at `REALFILE` alone (43_digi_detector.md R266). -/
theorem psidTick_congr {c d : Chip} (hdet : d.det = c.det) (hreal : d.realFile = c.realFile) (reads : Nat) :
    (psidAdvance d).det = (psidAdvance c).det ∧ psidLevel reads d = psidLevel reads c
      ∧ psidReads reads d = psidReads reads c := by
  have hruns : psidRuns d = psidRuns c := by simp only [psidRuns, hdet, hreal]
  have hsounds : psidSounds d = psidSounds c := by simp only [psidSounds, hruns, hdet]
  refine ⟨?_, by simp only [psidLevel, hsounds, hdet], by simp only [psidReads, hsounds]⟩
  simp only [psidAdvance, hruns]
  split <;> simp only [hdet]

/-- The chip that the player's tick finds in a tick of SYNTH has the detector and the `REALFILE` of the chip before. -/
theorem synthTick_settled (extEn traceEn : Bool) (scale : Byte) (c : Chip) (sm : Sums) (m : Int) :
    let settled := extState extEn (outputState (renderVoices scale traceEn { c with life := .active }).chip sm) m
    settled.det = c.det ∧ settled.realFile = c.realFile := by
  refine ⟨by simp, ?_⟩
  have hrest := sameButRendering_trans (outputState_frame (renderVoices scale traceEn { c with life := .active }).chip sm)
    (extState_frame extEn _ m)
  exact (sameButRendering_realFile (sameButRendering_trans (renderVoices_frame scale traceEn _) hrest) :)

/-- SYNTH moves the detector as the player's tick does. -/
theorem synthTick_det (extEn traceEn : Bool) (scale : Byte) (reads : Nat) (c : Chip) :
    (synthTick extEn traceEn scale reads c).chip.det = (psidAdvance c).det := by
  obtain ⟨hdet, hreal⟩ := synthTick_settled extEn traceEn scale c _ _
  exact (psidTick_congr hdet hreal reads).1

theorem synthTick_mute (extEn traceEn : Bool) (scale : Byte) (reads : Nat) (c : Chip) :
    (synthTick extEn traceEn scale reads c).chip.mute = c.mute :=
  (sameButRendering_mute (synthTick_frame extEn traceEn scale reads c) :)

theorem synthTick_realFile (extEn traceEn : Bool) (scale : Byte) (reads : Nat) (c : Chip) :
    (synthTick extEn traceEn scale reads c).chip.realFile = c.realFile :=
  (sameButRendering_realFile (synthTick_frame extEn traceEn scale reads c) :)

/-- SYNTH_STRIPPED moves nothing of the detector (44_render.md R305). -/
theorem strippedTick_det (extEn : Bool) (scale : Byte) (c : Chip) : (strippedTick extEn scale c).1.det = c.det := by
  simp [strippedTick]

theorem strippedTick_mute (extEn : Bool) (scale : Byte) (c : Chip) : (strippedTick extEn scale c).1.mute = c.mute :=
  (sameButRendering_mute (strippedTick_frame extEn scale c) :)

theorem strippedTick_realFile (extEn : Bool) (scale : Byte) (c : Chip) :
    (strippedTick extEn scale c).1.realFile = c.realFile :=
  (sameButRendering_realFile (strippedTick_frame extEn scale c) :)

/-- The player's tick moves the player alone. -/
theorem psidAdvance_det (c : Chip) : (psidAdvance c).det = { c.det with psid := (psidAdvance c).det.psid } := by
  unfold psidAdvance
  split <;> rfl

/-! ### A property of the detector and the mutes -/

/-- A property of a chip's detector, mutes and `REALFILE` that detection, the player's tick and the control commands keep,
every move keeps. -/
theorem chipMove_keeps_detector {Q : Detector → PerVoice Bool → Bool → Prop}
    (hdetect : ∀ a val c, Q c.det c.mute c.realFile →
      Q (detectSample a val c).1.det (detectSample a val c).1.mute c.realFile)
    (hplayer : ∀ c, Q c.det c.mute c.realFile → Q (psidAdvance c).det c.mute c.realFile)
    (hcount : ∀ c, Q c.det c.mute c.realFile → Q (resetCount c).det (resetCount c).mute c.realFile)
    (hdisable : ∀ c, Q c.det c.mute c.realFile → Q (disableDetector c).det (disableDetector c).mute c.realFile)
    (henable : ∀ c, Q c.det c.mute c.realFile → Q (enableDetector c).det (enableDetector c).mute c.realFile)
    (hdetector : ∀ c, Q c.det c.mute c.realFile → Q resetDetectorFields (restoreMutes c).mute c.realFile)
    (hreset : ∀ realFile, Q resetDetectorFields (perVoice false) realFile)
    (i : Fin 10) (c d : Chip) (h : ChipMove i c d) (hc : Q c.det c.mute c.realFile) : Q d.det d.mute d.realFile := by
  refine chipMove_keeps (P := fun _ c => Q c.det c.mute c.realFile) ?write (fun _ _ _ h => h) ?render ?stripped ?count
    (fun _ c h => hdisable c h) (fun _ c h => henable c h) (fun _ c h => hdetector c h) (fun _ _ _ h => h)
    (fun _ a _ _ _ => hreset a.realFile) i c d h hc
  case write =>
    intro _ a val poke c hp _ h
    rw [writeChip_outside_registers a val hp c]
    exact hdetect a val { c with life := .active } h
  case render =>
    intro _ extEn traceEn scale reads c _ h
    rw [synthTick_det, synthTick_mute, synthTick_realFile]
    exact hplayer c h
  case stripped =>
    intro _ extEn scale c _ h
    rw [strippedTick_det, strippedTick_mute, strippedTick_realFile]
    exact h
  case count =>
    intro _ c h
    have hreal : (resetCount c).realFile = c.realFile := by rw [resetCount_frame c]
    rw [hreal]
    exact hcount c h

/-! ### The mutes of the technique (10_state.md R48) -/

/-- After a change of source the mutes and the flags are clear (43_digi_detector.md R225). -/
theorem setSource_mutes {c : Chip} (hc : c.mutesFollowSource) (type : DigiType) (src : DigiSrc) :
    (setSource type src c).det.type = type ∧ (setSource type src c).det.src = src
      ∧ ((setSource type src c).mute = perVoice false ∨ (setSource type src c).mute = silencedBy type src)
      ∧ (setSource type src c).det.muted = (setSource type src c).mute := by
  by_cases hsame : c.det.type ≠ type ∨ c.det.src ≠ src
  · rw [setSource_of_change hsame]
    have hclear := restoreMutes_mute_of_mutesFollowSource hc
    exact ⟨rfl, rfl, .inl hclear, hclear.symm⟩
  · have hid : setSource type src c = c := if_neg hsame
    simp only [not_or, not_not] at hsame
    obtain ⟨htype, hsrc⟩ := hsame
    obtain ⟨_, hmute, hmuted⟩ := hc
    rw [hid]
    refine ⟨htype, hsrc, .inr ?_, hmuted⟩
    rw [hmute, htype, hsrc]

theorem capture_mutesFollowSource {c : Chip} (hc : c.mutesFollowSource) {type : DigiType}
    (htype : type = .fm ∨ type = .pwm ∨ type = .swallow) (v : Voice) (x : Byte) :
    (capture type v x c).mutesFollowSource := by
  obtain ⟨ht, hs, hmute, hmuted⟩ := setSource_mutes hc type (.voice v)
  have hsilenced : silencedBy type (.voice v) = (perVoice false).set v true := by
    rcases htype with rfl | rfl | rfl <;> rfl
  have hset : (setSource type (.voice v) c).mute.set v true = (perVoice false).set v true := by
    rcases hmute with h | h
    · rw [h]
    · rw [h, hsilenced]
      cases v <;> rfl
  have hfits : sourceFits type (.voice v) = true := by
    rcases htype with rfl | rfl | rfl <;> rfl
  simp only [Chip.mutesFollowSource, capture, muteVoice_det_type, muteVoice_det_src, muteVoice_det_muted,
    muteVoice_mute, recordSample_det_type, recordSample_det_src, recordSample_det_muted, recordSample_mute, ht, hs,
    hmuted, hset, hsilenced, hfits, and_self]

theorem d418Detect_mutesFollowSource {c : Chip} (hc : c.mutesFollowSource) (val : Byte) :
    (d418Detect val c).1.mutesFollowSource := by
  unfold d418Detect
  split
  · obtain ⟨ht, hs, _, _⟩ := setSource_mutes hc .m418 .volume
    simp [Chip.mutesFollowSource, ht, hs, sourceFits, silencedBy]
  · split
    · exact hc
    · obtain ⟨ht, hs, hmute, hmuted⟩ := setSource_mutes hc .d418 .volume
      have hclear : (setSource .d418 .volume c).mute = perVoice false := by
        rcases hmute with h | h <;> exact h
      simp [Chip.mutesFollowSource, ht, hs, hmuted, hclear, sourceFits, silencedBy]

theorem detectSample_mutesFollowSource {c : Chip} (hc : c.mutesFollowSource) (a : Addr) (val : Byte) :
    (detectSample a val c).1.mutesFollowSource :=
  detectSample_keeps (P := Chip.mutesFollowSource) (fun _ _ _ h => h) (fun _ _ _ h => h) (fun _ _ _ h => h)
    (fun _ _ _ h => h) (fun _ v x _ htype h => capture_mutesFollowSource h htype v x)
    (fun val _ h => d418Detect_mutesFollowSource h val) a val c hc

theorem psidAdvance_mutesFollowSource {c : Chip} (hc : c.mutesFollowSource) :
    Chip.mutesFollowSource { c with det := (psidAdvance c).det } := by
  rw [psidAdvance_det]
  exact hc

theorem resetCount_mutesFollowSource {c : Chip} (hc : c.mutesFollowSource) : (resetCount c).mutesFollowSource := by
  unfold resetCount
  split
  · have hclear := restoreMutes_mute_of_mutesFollowSource hc
    exact ⟨rfl, hclear, hclear.symm⟩
  · exact hc

theorem chipMove_mutesFollowSource (i : Fin 10) (c d : Chip) (h : ChipMove i c d) (hc : c.mutesFollowSource) :
    d.mutesFollowSource := by
  refine chipMove_keeps_detector
    (Q := fun det mute _ => sourceFits det.type det.src = true ∧ mute = silencedBy det.type det.src ∧ det.muted = mute)
    (fun a val c h => detectSample_mutesFollowSource (c := c) h a val)
    (fun c h => psidAdvance_mutesFollowSource (c := c) h) (fun c h => resetCount_mutesFollowSource (c := c) h)
    (fun c h => ?disable) (fun _ h => h) (fun c h => ?reset) (fun _ => ⟨rfl, rfl, rfl⟩) i c d h hc
  all_goals
    have hclear := restoreMutes_mute_of_mutesFollowSource (c := c) h
    exact ⟨rfl, hclear, hclear.symm⟩

/-! ### A disabled filter (42_filter.md R194) -/

/-- Routing the three voices runs the transfer function on no history of a disabled filter. -/
theorem renderVoice_of_modesOff (scale : Byte) (traceEn : Bool) (k : Tick) (v : Voice)
    (h : modesOff k.chip.filter = true) : (renderVoice scale traceEn k v).chip = k.chip := by
  have hsim : ∀ x, simState k.chip v x = k.chip := fun x => by simp [simState, simRuns, h]
  unfold renderVoice
  split
  · rfl
  · simp only [hsim, ite_self]

theorem renderVoices_of_modesOff (scale : Byte) (traceEn : Bool) {c : Chip} (h : modesOff c.filter = true) :
    (renderVoices scale traceEn c).chip = c := by
  have h0 := renderVoice_of_modesOff scale traceEn ⟨c, ⟨0, 0⟩, perVoice 0⟩ .v0 h
  have h1 := renderVoice_of_modesOff scale traceEn _ .v1 (by rw [h0]; exact h)
  have h2 := renderVoice_of_modesOff scale traceEn _ .v2 (by rw [h1, h0]; exact h)
  simp only [renderVoices, List.foldl_cons, List.foldl_nil]
  exact h2.trans (h1.trans h0)

theorem sameButRendering_modesOff {c d : Chip} (h : sameButRendering c d) : modesOff d.filter = modesOff c.filter := by
  unfold sameButRendering at h
  rw [h]
  rfl

/-- The external filter and the player write no history. -/
theorem extState_histories (extEn : Bool) (c : Chip) (m : Int) :
    (extState extEn c m).filter.fh = c.filter.fh ∧ (extState extEn c m).filter.fs = c.filter.fs := by
  unfold extState
  split <;> exact ⟨rfl, rfl⟩

@[simp] theorem psidAdvance_filter (c : Chip) : (psidAdvance c).filter = c.filter := by
  unfold psidAdvance
  split <;> rfl

theorem synthTick_of_modesOff (extEn traceEn : Bool) (scale : Byte) (reads : Nat) {c : Chip}
    (h : modesOff c.filter = true) :
    (synthTick extEn traceEn scale reads c).chip.filter.fh = c.filter.fh
      ∧ (synthTick extEn traceEn scale reads c).chip.filter.fs = c.filter.fs := by
  have hvoices := renderVoices_of_modesOff scale traceEn (c := { c with life := .active }) h
  have hout : ∀ sm, outputState { c with life := .active } sm = { c with life := .active } :=
    fun sm => outputState_of_modesOff (c := { c with life := .active }) h sm
  simp only [synthTick, psidAdvance_filter, extState_histories, hvoices, hout, and_self]

theorem strippedTick_of_modesOff (extEn : Bool) (scale : Byte) {c : Chip} (h : modesOff c.filter = true) :
    (strippedTick extEn scale c).1.filter.fh = c.filter.fh ∧ (strippedTick extEn scale c).1.filter.fs = c.filter.fs := by
  have hout : ∀ sm, outputState { c with life := .active } sm = { c with life := .active } :=
    fun sm => outputState_of_modesOff (c := { c with life := .active }) h sm
  simp only [strippedTick, extState_histories, renderVoices_untraced, hout, and_self]

theorem sameButDetector_filter {c d : Chip} (h : sameButDetector c d) : d.filter = c.filter := by
  unfold sameButDetector at h
  rw [h]

theorem chipMove_historyFlushed (i : Fin 10) (c d : Chip) (h : ChipMove i c d) (hc : c.historyFlushed) :
    d.historyFlushed := by
  have hkeep : ∀ {c d : Chip}, d.filter = c.filter → c.historyFlushed → d.historyFlushed := fun e h => by
    unfold Chip.historyFlushed
    rw [e]
    exact h
  refine chipMove_keeps (P := fun _ c => c.historyFlushed) ?write (fun _ _ _ h => h) ?render ?stripped
    (fun _ c => hkeep (sameButDetector_filter (resetCount_frame c))) (fun _ _ h => h) (fun _ _ h => h) (fun _ _ h => h)
    (fun _ _ _ _ _ => ⟨rfl, rfl⟩) (fun _ _ _ _ _ _ => ⟨rfl, rfl⟩) i c d h hc
  case write =>
    intro _ a val poke c hp _ h
    rw [writeChip_eq]
    exact hp.flushed _ h
  case render =>
    intro _ extEn traceEn scale reads c _ h hoff
    rw [sameButRendering_modesOff (synthTick_frame extEn traceEn scale reads c)] at hoff
    obtain ⟨hfh, hfs⟩ := synthTick_of_modesOff extEn traceEn scale reads (c := c) hoff
    rw [hfh, hfs]
    exact h hoff
  case stripped =>
    intro _ extEn scale c _ h hoff
    rw [sameButRendering_modesOff (strippedTick_frame extEn scale c)] at hoff
    obtain ⟨hfh, hfs⟩ := strippedTick_of_modesOff extEn scale (c := c) hoff
    rw [hfh, hfs]
    exact h hoff

end Sys2Proof.Machine

/-! The detector's algorithms (43_digi_detector.md): which of them sees which register, what a capture writes, and what
each leaves of the automata. -/

namespace Sys2Proof.Machine

/-! ### A change of source and a capture, field by field (R225 to R227) -/

@[simp] theorem setSource_det_en (type : DigiType) (src : DigiSrc) (c : Chip) :
    (setSource type src c).det.en = c.det.en := by unfold setSource; split <;> rfl
@[simp] theorem setSource_det_fm (type : DigiType) (src : DigiSrc) (c : Chip) :
    (setSource type src c).det.fm = c.det.fm := by unfold setSource; split <;> rfl
@[simp] theorem setSource_det_pw (type : DigiType) (src : DigiSrc) (c : Chip) :
    (setSource type src c).det.pw = c.det.pw := by unfold setSource; split <;> rfl
@[simp] theorem setSource_det_sw (type : DigiType) (src : DigiSrc) (c : Chip) :
    (setSource type src c).det.sw = c.det.sw := by unfold setSource; split <;> rfl
@[simp] theorem setSource_det_psid (type : DigiType) (src : DigiSrc) (c : Chip) :
    (setSource type src c).det.psid = c.det.psid := by unfold setSource; split <;> rfl

@[simp] theorem setSource_det_type (type : DigiType) (src : DigiSrc) (c : Chip) :
    (setSource type src c).det.type = type := by
  unfold setSource
  split
  · rfl
  · next h => exact not_ne_iff.mp (not_or.mp h).1

@[simp] theorem setSource_det_src (type : DigiType) (src : DigiSrc) (c : Chip) :
    (setSource type src c).det.src = src := by
  unfold setSource
  split
  · rfl
  · next h => exact not_ne_iff.mp (not_or.mp h).2

/-- The count restarts where the technique or the source changes (R225). -/
theorem setSource_det_count (type : DigiType) (src : DigiSrc) (c : Chip) :
    (setSource type src c).det.count = if c.det.type = type ∧ c.det.src = src then c.det.count else 0 := by
  unfold setSource
  by_cases h : c.det.type = type ∧ c.det.src = src
  · simp [h]
  · rw [if_neg h, if_pos (by tauto)]

@[simp] theorem capture_det_en (type : DigiType) (v : Voice) (x : Byte) (c : Chip) :
    (capture type v x c).det.en = c.det.en := by simp [capture]
@[simp] theorem capture_det_fm (type : DigiType) (v : Voice) (x : Byte) (c : Chip) :
    (capture type v x c).det.fm = c.det.fm := by simp [capture]
@[simp] theorem capture_det_pw (type : DigiType) (v : Voice) (x : Byte) (c : Chip) :
    (capture type v x c).det.pw = c.det.pw := by simp [capture]
@[simp] theorem capture_det_sw (type : DigiType) (v : Voice) (x : Byte) (c : Chip) :
    (capture type v x c).det.sw = c.det.sw := by simp [capture]
@[simp] theorem capture_det_psid (type : DigiType) (v : Voice) (x : Byte) (c : Chip) :
    (capture type v x c).det.psid = c.det.psid := by simp [capture]
@[simp] theorem capture_det_type (type : DigiType) (v : Voice) (x : Byte) (c : Chip) :
    (capture type v x c).det.type = type := by simp [capture]
@[simp] theorem capture_det_src (type : DigiType) (v : Voice) (x : Byte) (c : Chip) :
    (capture type v x c).det.src = .voice v := by simp [capture]
@[simp] theorem capture_det_sample (type : DigiType) (v : Voice) (x : Byte) (c : Chip) :
    (capture type v x c).det.sample = x := by simp [capture]
@[simp] theorem capture_mute_get (type : DigiType) (v : Voice) (x : Byte) (c : Chip) :
    (capture type v x c).mute.get v = true := by simp [capture]
@[simp] theorem capture_det_muted_get (type : DigiType) (v : Voice) (x : Byte) (c : Chip) :
    (capture type v x c).det.muted.get v = true := by simp [capture]

theorem toNat_saturatingSucc (n : BitVec 32) : (saturatingSucc n).toNat = min (n.toNat + 1) (2 ^ 32 - 1) := by
  have hlt := n.isLt
  unfold saturatingSucc
  split
  · next h =>
    rw [h]
    decide
  · next h =>
    have hne : n.toNat ≠ 2 ^ 32 - 1 := fun e => h (BitVec.eq_of_toNat_eq (e.trans (by decide)))
    have hone : (1 : BitVec 32).toNat = 1 := rfl
    rw [BitVec.toNat_add, hone]
    omega

/-- A sample recorded from a source counts on from the samples of that source, or from none (R225, R226). -/
theorem toNat_succ_setSource_count (type : DigiType) (src : DigiSrc) (c : Chip) :
    (saturatingSucc (setSource type src c).det.count).toNat =
      if c.det.type = type ∧ c.det.src = src then min (c.det.count.toNat + 1) (2 ^ 32 - 1) else 1 := by
  rw [toNat_saturatingSucc, setSource_det_count]
  split <;> rfl

theorem capture_det_count (type : DigiType) (v : Voice) (x : Byte) (c : Chip) :
    (capture type v x c).det.count.toNat =
      if c.det.type = type ∧ c.det.src = .voice v then min (c.det.count.toNat + 1) (2 ^ 32 - 1) else 1 :=
  toNat_succ_setSource_count type (.voice v) c

/-! ### Which algorithm sees which register (R216) -/

theorem pwmOnPwLo_not_consumed (v : Voice) (val : Byte) (c : Chip) : (pwmOnPwLo v val c).2 = false := by
  unfold pwmOnPwLo
  dsimp only
  split <;> rfl

/-- Only FM sees the high frequency byte. -/
theorem detectVoice_freqHi (v : Voice) (val : Byte) (c : Chip) : detectVoice v 1 val c = fmOnFreqHi v val c := by
  simp only [detectVoice, fmDetect, pwmDetect, swallowDetect]
  by_cases h : (fmOnFreqHi v val c).2 = true
  · rw [if_pos h]
  · rw [if_neg h]
    exact Prod.ext rfl (Bool.eq_false_iff.mpr h).symm

/-- PWM-test and then Swallow see the low byte of the pulse width. -/
theorem detectVoice_pwLo (v : Voice) (val : Byte) (c : Chip) :
    detectVoice v 2 val c = swallowOnPulse v .lo val (pwmOnPwLo v val c).1 := by
  simp [detectVoice, fmDetect, pwmDetect, swallowDetect, pwmOnPwLo_not_consumed]

/-- Only Swallow sees the high byte of the pulse width. -/
theorem detectVoice_pwHi (v : Voice) (val : Byte) (c : Chip) :
    detectVoice v 3 val c = swallowOnPulse v .hi val c := by
  simp [detectVoice, fmDetect, pwmDetect, swallowDetect]

/-- All three see the waveform register, up to the first that consumes. -/
theorem detectVoice_wave (v : Voice) (val : Byte) (c : Chip) :
    detectVoice v 4 val c =
      if (fmOnWave v val c).2 then fmOnWave v val c
      else if (pwmOnWave v val (fmOnWave v val c).1).2 then pwmOnWave v val (fmOnWave v val c).1
      else swallowOnWave v val (pwmOnWave v val (fmOnWave v val c).1).1 := rfl

/-- No algorithm sees the low frequency byte and the two envelope registers. -/
theorem detectVoice_unwatched (v : Voice) {r : Nat} (hr : r ≠ 1 ∧ r ≠ 2 ∧ r ≠ 3 ∧ r ≠ 4) (val : Byte) (c : Chip) :
    detectVoice v r val c = (c, false) := by
  simp [detectVoice, fmDetect, pwmDetect, swallowDetect, hr]

/-! ### What the algorithms leave of the automata -/

/-- A waveform write moves the FM automaton of its voice alone, past `Idle` only on one of the three bytes of the pattern,
and back to `Idle` where it is consumed (R230). -/
theorem fmOnWave_automata (v : Voice) (val : Byte) (c : Chip) :
    (fmOnWave v val c).1.det.pw = c.det.pw
    ∧ (∀ u, u ≠ v → (fmOnWave v val c).1.det.fm.get u = c.det.fm.get u)
    ∧ (((fmOnWave v val c).1.det.fm.get v).phase = .idle
        ∨ (fmOnWave v val c).2 = false ∧ val ≠ pulseTestGate) := by
  unfold fmOnWave
  dsimp only
  split_ifs <;> simp_all [triGate, testGate, gateOnly, pulseTestGate]

/-- A high frequency byte moves the FM automaton of its voice alone, and takes none out of `Idle` (R231). -/
theorem fmOnFreqHi_automata (v : Voice) (val : Byte) (c : Chip) :
    (fmOnFreqHi v val c).1.det.pw = c.det.pw
    ∧ (∀ u, u ≠ v → (fmOnFreqHi v val c).1.det.fm.get u = c.det.fm.get u)
    ∧ ((c.det.fm.get v).phase = .idle → ((fmOnFreqHi v val c).1.det.fm.get v).phase = .idle) := by
  unfold fmOnFreqHi
  dsimp only
  split
  case h_1 => split_ifs <;> simp_all
  case h_2 => split_ifs <;> simp_all
  all_goals exact ⟨rfl, fun _ _ => rfl, fun h => h⟩

/-- A waveform write moves the PWM-test automaton of its voice alone, past `Idle` only on pulse+test+gate (R240). -/
theorem pwmOnWave_automata (v : Voice) (val : Byte) (c : Chip) :
    (pwmOnWave v val c).1.det.fm = c.det.fm
    ∧ (∀ u, u ≠ v → (pwmOnWave v val c).1.det.pw.get u = c.det.pw.get u)
    ∧ (((pwmOnWave v val c).1.det.pw.get v).phase = .idle ∨ val = pulseTestGate) := by
  unfold pwmOnWave
  dsimp only
  split_ifs <;> simp_all

/-- A low byte of the pulse width moves the PWM-test automaton of its voice alone, past its first phase only from there
(R241). -/
theorem pwmOnPwLo_automata (v : Voice) (val : Byte) (c : Chip) :
    (pwmOnPwLo v val c).1.det.fm = c.det.fm
    ∧ (∀ u, u ≠ v → (pwmOnPwLo v val c).1.det.pw.get u = c.det.pw.get u)
    ∧ (((pwmOnPwLo v val c).1.det.pw.get v).phase = .prepA ∨ (c.det.pw.get v).phase = .prepB) := by
  unfold pwmOnPwLo
  dsimp only
  split_ifs <;> simp_all

/-- Swallow moves neither automaton (R248, R249). -/
theorem swallowOnWave_automata (v : Voice) (val : Byte) (c : Chip) :
    (swallowOnWave v val c).1.det.fm = c.det.fm ∧ (swallowOnWave v val c).1.det.pw = c.det.pw := by
  unfold swallowOnWave
  split <;> exact ⟨rfl, rfl⟩

theorem swallowOnPulse_automata (v : Voice) (r : PulseReg) (val : Byte) (c : Chip) :
    (swallowOnPulse v r val c).1.det.fm = c.det.fm ∧ (swallowOnPulse v r val c).1.det.pw = c.det.pw := by
  unfold swallowOnPulse
  split
  · exact ⟨rfl, rfl⟩
  · split
    · split
      · exact ⟨rfl, rfl⟩
      · simp
    · exact ⟨rfl, rfl⟩

/-- A volume sample moves neither automaton (R253). -/
theorem d418Detect_automata (val : Byte) (c : Chip) :
    (d418Detect val c).1.det.fm = c.det.fm ∧ (d418Detect val c).1.det.pw = c.det.pw := by
  unfold d418Detect
  split_ifs <;> simp

/-! ### The automata of a voice are exclusive (R242) -/

/-- The automata of one voice are not both past their first phase. -/
def voiceExclusive (c : Chip) (v : Voice) : Prop :=
  (c.det.fm.get v).phase = .idle ∨ (c.det.pw.get v).phase = .idle ∨ (c.det.pw.get v).phase = .prepA

theorem voiceExclusive_congr {c d : Chip} {v : Voice} (hfm : d.det.fm.get v = c.det.fm.get v)
    (hpw : d.det.pw.get v = c.det.pw.get v) (h : voiceExclusive c v) : voiceExclusive d v := by
  unfold voiceExclusive
  rw [hfm, hpw]
  exact h

theorem detectVoice_wave_exclusive {c : Chip} (hc : c.automataExclusive) (v : Voice) (val : Byte) :
    (detectVoice v 4 val c).1.automataExclusive := by
  obtain ⟨hpw, hfmOther, hfm⟩ := fmOnWave_automata v val c
  generalize hr : fmOnWave v val c = r at *
  obtain ⟨hfmKept, hpwOther, hpwPhase⟩ := pwmOnWave_automata v val r.1
  obtain ⟨hswFm, hswPw⟩ := swallowOnWave_automata v val (pwmOnWave v val r.1).1
  have hfmWave : ∀ u, u ≠ v → voiceExclusive r.1 u := fun u hu =>
    voiceExclusive_congr (hfmOther u hu) (by rw [hpw]) (hc u)
  have hpwm : ∀ u, r.2 = false → voiceExclusive (pwmOnWave v val r.1).1 u := by
    intro u hcons
    by_cases hu : u = v
    · subst hu
      unfold voiceExclusive
      rw [hfmKept]
      rcases hfm with hidle | ⟨_, hne⟩
      · exact .inl hidle
      · exact .inr (.inl (hpwPhase.resolve_right hne))
    · exact voiceExclusive_congr (by rw [hfmKept]) (hpwOther u hu) (hfmWave u hu)
  intro u
  rw [detectVoice_wave, hr]
  split
  · next hcons =>
    by_cases hu : u = v
    · subst hu
      exact .inl (hfm.resolve_right fun h => by simp [hcons] at h)
    · exact hfmWave u hu
  · next hcons =>
    have hcons' : r.2 = false := Bool.eq_false_iff.mpr hcons
    split
    · exact hpwm u hcons'
    · exact voiceExclusive_congr (by rw [hswFm]) (by rw [hswPw]) (hpwm u hcons')

theorem detectVoice_freqHi_exclusive {c : Chip} (hc : c.automataExclusive) (v : Voice) (val : Byte) :
    (detectVoice v 1 val c).1.automataExclusive := by
  obtain ⟨hpw, hother, hidle⟩ := fmOnFreqHi_automata v val c
  rw [detectVoice_freqHi]
  intro u
  by_cases hu : u = v
  · subst hu
    rw [hpw]
    exact (hc u).imp_left hidle
  · exact voiceExclusive_congr (hother u hu) (by rw [hpw]) (hc u)

theorem detectVoice_pwLo_exclusive {c : Chip} (hc : c.automataExclusive) (v : Voice) (val : Byte) :
    (detectVoice v 2 val c).1.automataExclusive := by
  obtain ⟨hfm, hother, hphase⟩ := pwmOnPwLo_automata v val c
  obtain ⟨hswFm, hswPw⟩ := swallowOnPulse_automata v .lo val (pwmOnPwLo v val c).1
  rw [detectVoice_pwLo]
  intro u
  refine voiceExclusive_congr (c := (pwmOnPwLo v val c).1) (by rw [hswFm]) (by rw [hswPw]) ?_
  by_cases hu : u = v
  · subst hu
    rcases hphase with hprepA | hprepB
    · exact .inr (.inr hprepA)
    · refine .inl ?_
      rw [hfm]
      simpa [hprepB] using hc u
  · exact voiceExclusive_congr (by rw [hfm]) (hother u hu) (hc u)

theorem detectSample_exclusive {c : Chip} (hc : c.automataExclusive) (a : Addr) (val : Byte) :
    (detectSample a val c).1.automataExclusive := by
  unfold detectSample
  split
  · have hlatched : (psidLatch a val c).automataExclusive := hc
    generalize psidLatch a val c = d at hlatched ⊢
    unfold detectAt
    split
    · generalize voiceOfIndex ((regOf a).toNat / 7) = v
      by_cases h1 : (regOf a).toNat % 7 = 1
      · rw [h1]; exact detectVoice_freqHi_exclusive hlatched v val
      by_cases h2 : (regOf a).toNat % 7 = 2
      · rw [h2]; exact detectVoice_pwLo_exclusive hlatched v val
      by_cases h4 : (regOf a).toNat % 7 = 4
      · rw [h4]; exact detectVoice_wave_exclusive hlatched v val
      by_cases h3 : (regOf a).toNat % 7 = 3
      · rw [h3, detectVoice_pwHi]
        obtain ⟨hfm, hpw⟩ := swallowOnPulse_automata v .hi val d
        exact fun u => voiceExclusive_congr (by rw [hfm]) (by rw [hpw]) (hlatched u)
      · rw [detectVoice_unwatched v ⟨h1, h2, h3, h4⟩]
        exact hlatched
    · split
      · obtain ⟨hfm, hpw⟩ := d418Detect_automata val d
        exact fun u => voiceExclusive_congr (by rw [hfm]) (by rw [hpw]) (hlatched u)
      · exact hlatched
  · exact hc

theorem chipMove_automataExclusive (i : Fin 10) (c d : Chip) (h : ChipMove i c d) (hc : c.automataExclusive) :
    d.automataExclusive := by
  refine chipMove_keeps_detector
    (Q := fun det _ _ => ∀ v, (det.fm.get v).phase = .idle ∨ (det.pw.get v).phase = .idle
      ∨ (det.pw.get v).phase = .prepA)
    (fun a val c h => detectSample_exclusive (c := c) h a val) (fun c h => ?player) (fun c h => ?count)
    (fun _ _ v => ?idle) (fun _ h => h) (fun _ _ v => ?idle') (fun _ v => ?idle'') i c d h hc
  case player =>
    rw [psidAdvance_det]
    exact h
  case count =>
    unfold resetCount
    split <;> exact h
  all_goals
    refine .inl ?_
    cases v <;> rfl

/-! ### A disabled detector, and the player of a real file (R261, R273) -/

theorem detectSample_det_en (a : Addr) (val : Byte) (c : Chip) : (detectSample a val c).1.det.en = c.det.en := by
  refine detectSample_keeps (P := fun d => d.det.en = c.det.en) (fun _ _ _ h => h) (fun _ _ _ h => h)
    (fun _ _ _ h => h) (fun _ _ _ h => h) (fun _ _ _ _ _ h => (capture_det_en _ _ _ _).trans h) ?_ a val c rfl
  intro val d h
  unfold d418Detect
  split_ifs <;> simp [h]

theorem detectSample_of_disabled (a : Addr) (val : Byte) {c : Chip} (h : c.det.en = false) :
    detectSample a val c = (c, false) := by
  simp [detectSample, h]

theorem detectSample_inert {c : Chip} (hc : c.disabledInert) (a : Addr) (val : Byte) :
    (detectSample a val c).1.disabledInert := by
  intro hoff
  rw [detectSample_det_en] at hoff
  rw [detectSample_of_disabled a val hoff]
  exact hc hoff

theorem detectSample_still (a : Addr) (val : Byte) {c : Chip} (hreal : c.realFile = true) :
    (detectSample a val c).1.det.psid = c.det.psid := by
  refine (detectSample_keeps (P := fun d => d.realFile = true ∧ d.det.psid = c.det.psid) ?_ (fun _ _ _ h => h)
    (fun _ _ _ h => h) (fun _ _ _ h => h) ?_ ?_ a val c ⟨hreal, rfl⟩).2
  · intro a val d h
    rw [psidLatch_of_realFile a val d h.1]
    exact h
  · intro type v x d _ h
    have hframe := capture_frame type v x d
    unfold sameButDetector at hframe
    exact ⟨by rw [hframe]; exact h.1, (capture_det_psid type v x d).trans h.2⟩
  · intro val d h
    have hframe := d418Detect_frame val d
    unfold sameButDetector at hframe
    refine ⟨by rw [hframe]; exact h.1, ?_⟩
    unfold d418Detect
    split_ifs <;> simp [h.2]

theorem psidAdvance_of_not_runs {c : Chip} (h : psidRuns c = false) : psidAdvance c = c := by
  simp [psidAdvance, h]

theorem psidRuns_iff (c : Chip) :
    psidRuns c = true ↔ c.realFile = false ∧ c.det.en = true ∧ c.det.psid.pdActive = true := by
  simp [psidRuns, and_assoc]

theorem chipMove_inert_and_still (i : Fin 10) (c d : Chip) (h : ChipMove i c d)
    (hc : c.disabledInert ∧ c.realFilePlayerStill) : d.disabledInert ∧ d.realFilePlayerStill := by
  refine chipMove_keeps_detector
    (Q := fun det _ realFile =>
      (det.en = false → det.type = .none ∧ det.src = .unused ∧ det.count = 0 ∧ det.fm = perVoice idleFm
        ∧ det.pw = perVoice idlePw ∧ det.sw = perVoice none ∧ det.psid.pdActive = false)
      ∧ (realFile = true → det.psid = zeroPsid))
    (fun a val c h => ?detect) (fun c h => ?player) (fun c h => ?count) (fun c h => ?disable)
    (fun c h => ⟨fun hoff => (Bool.noConfusion hoff), h.2⟩) (fun c h => ⟨fun hoff => Bool.noConfusion hoff, fun _ => rfl⟩)
    (fun _ => ⟨fun hoff => Bool.noConfusion hoff, fun _ => rfl⟩) i c d h hc
  case detect =>
    exact ⟨detectSample_inert (c := c) h.1 a val, fun hreal => (detectSample_still a val hreal).trans (h.2 hreal)⟩
  case player =>
    have hstays : c.det.en = false ∨ c.realFile = true → psidAdvance c = c := fun hor =>
      psidAdvance_of_not_runs (by rcases hor with h | h <;> simp [psidRuns, h])
    have hen : (psidAdvance c).det.en = c.det.en := by rw [psidAdvance_det]
    refine ⟨fun hoff => ?_, fun hreal => ?_⟩
    · rw [hen] at hoff
      rw [hstays (.inl hoff)]
      exact h.1 hoff
    · rw [hstays (.inr hreal)]
      exact h.2 hreal
  case count =>
    unfold resetCount
    split
    · next hempty => exact ⟨fun hoff => absurd (h.1 hoff).1 hempty.2, h.2⟩
    · refine ⟨fun hoff => ?_, h.2⟩
      obtain ⟨htype, hsrc, _, hrest⟩ := h.1 hoff
      exact ⟨htype, hsrc, rfl, hrest⟩
  case disable =>
    refine ⟨fun _ => ⟨rfl, rfl, rfl, rfl, rfl, rfl, rfl⟩, fun hreal => ?_⟩
    have hpsid : (disableDetector c).det.psid = { c.det.psid with pdActive := false } := rfl
    rw [hpsid, h.2 hreal]
    rfl

/-! ### The constants of the model (10_state.md R26) -/

theorem chipMove_constantsDerived (i : Fin 10) (c d : Chip) (h : ChipMove i c d) (hc : c.constantsDerived) :
    d.constantsDerived := by
  refine chipMove_keeps (P := fun _ c => c.constantsDerived) ?write (fun _ _ hl h _ => h hl) ?render ?stripped
    ?count (fun _ _ h => h) (fun _ _ h => h) (fun _ _ h => h) ?model
    (fun _ _ hs hr _ _ => ⟨rfl, rfl, hs, hr⟩) i c d h hc
  case write =>
    intro _ a val poke c hp hl h _
    rw [writeChip_outside_registers a val hp c]
    exact h hl
  case render =>
    intro _ extEn traceEn scale reads c hl h _
    rw [synthTick_frame extEn traceEn scale reads c]
    exact h hl
  case stripped =>
    intro _ extEn scale c hl h _
    rw [strippedTick_frame extEn scale c]
    exact h hl
  case count =>
    intro _ c h
    rw [resetCount_frame c]
    exact h
  case model =>
    intro _ m c h hl
    obtain ⟨_, _, hs, hr⟩ := h hl
    exact ⟨rfl, rfl, hs, hr⟩

end Sys2Proof.Machine

/-! What each command writes outside the chips, of the memories and of the life of a chip; and the lookup table that
RESETALL builds. -/

namespace Sys2Proof.Machine

open Sys2Proof.Laws

/-! ### Outside the chips (60_exceptions.md R361) -/

theorem sameOutsideChips_refl (s : State) : sameOutsideChips s s := ⟨rfl, rfl, rfl⟩

theorem sameOutsideChips_trans {s t u : State} (h : sameOutsideChips s t) (k : sameOutsideChips t u) :
    sameOutsideChips s u :=
  ⟨k.1.trans h.1, k.2.1.trans h.2.1, k.2.2.trans h.2.2⟩

theorem writeBus_outside {a : Addr} {val : Byte} {poke : Chip → Chip} {s t : State}
    (h : writeBus a val poke s = .next t) : sameOutsideChips s t := by
  simp only [writeBus, onBus_eq_next, Host.Outcome.next.injEq] at h
  obtain ⟨i, _, rfl⟩ := h
  exact ⟨rfl, rfl, rfl⟩

theorem digiCtrl_outside {c : BitVec 8} {f : Chip → Chip} {s t : State} (h : digiCtrl c s f = .next t) :
    sameOutsideChips s t := by
  simp only [digiCtrl, onChip_eq_next, Host.Outcome.next.injEq] at h
  rcases h with ⟨_, rfl⟩ | ⟨i, _, rfl⟩ <;> exact ⟨rfl, rfl, rfl⟩

theorem clockAt_outside {i : Fin 10} {s t : State} (h : clockAt i s = .next t) : sameOutsideChips s t := by
  simp only [clockAt, onInitialised_eq_next, Host.Outcome.next.injEq] at h
  obtain ⟨_, rfl⟩ := h
  exact ⟨rfl, rfl, rfl⟩

theorem synthAt_outside {i : Fin 10} {scale : Byte} {clearFlag traceEn : Bool} {offset : BitVec 32} {s t : State}
    (h : synthAt i scale clearFlag traceEn offset s = .next t) : sameOutsideChips s t := by
  simp only [synthAt, onInitialised_eq_next, Host.Outcome.next.injEq] at h
  obtain ⟨_, rfl⟩ := h
  exact ⟨rfl, rfl, rfl⟩

theorem synthStrippedAt_outside {i : Fin 10} {scale : Byte} {clearFlag : Bool} {offset : BitVec 32} {s t : State}
    (h : synthStrippedAt i scale clearFlag offset s = .next t) : sameOutsideChips s t := by
  simp only [synthStrippedAt, onInitialised_eq_next, Host.Outcome.next.injEq] at h
  obtain ⟨_, rfl⟩ := h
  exact ⟨rfl, rfl, rfl⟩

theorem forEach_outside {f : Fin 10 → State → Result} (hf : ∀ i s t, f i s = .next t → sameOutsideChips s t)
    {l : List (Fin 10)} {s t : State} (h : forEach f l s = .next t) : sameOutsideChips s t :=
  forEach_keeps (P := sameOutsideChips s) (fun i u v huv hu => sameOutsideChips_trans hu (hf i u v huv)) l s t h
    (sameOutsideChips_refl s)

theorem readBusWith_answers {a : Addr} {f : Chip → Byte} {s t : State} (h : readBusWith a f s = .next t) :
    ∃ w, t = { s with responses := s.responses ++ [w] } := by
  simp only [readBusWith, onBus_eq_next, respond_eq_next] at h
  obtain ⟨i, _, ht⟩ := h
  exact ⟨_, ht⟩

theorem digiQuery_answers {c : BitVec 8} {f : Detector → BitVec 32} {s t : State} (h : digiQuery c s f = .next t) :
    ∃ w, t = { s with responses := s.responses ++ [w] } := by
  simp only [digiQuery, onChip_eq_next, respond_eq_next] at h
  rcases h with ⟨_, ht⟩ | ⟨i, _, ht⟩ <;> exact ⟨_, ht⟩

/-- READ, PEEK and DIGI_QUERY append one response word and change nothing else (40_register_access.md R158,
43_digi_detector.md R276). -/
theorem exec_answers {i : Instr} {s t : State} (hop : rowOpcode i = 0x02 ∨ rowOpcode i = 0x03 ∨ rowOpcode i = 0x0B)
    (hnot : ∀ op, i ≠ .reserved op) (h : exec i s = .next t) : ∃ w, t = { s with responses := s.responses ++ [w] } := by
  cases i with
  | readBus addr | readOsc3 win | readEnv3 win | peekBus addr | peekOsc3 win | peekEnv3 win =>
    exact readBusWith_answers h
  | digiQueryType c => exact digiQuery_answers (f := fun d => digiTypeCode d.type) h
  | digiQueryRate c => exact digiQuery_answers (f := digiRate) h
  | digiQueryDesc c => exact digiQuery_answers (f := fun d => digiTypeCode d.type) h
  | digiQueryReserved c => exact digiQuery_answers (f := fun _ => 0) h
  | reserved op => exact absurd rfl (hnot op)
  | _ => simp [rowOpcode] at hop

/-- Every command but RESETALL, CONFIG and those that answer leaves everything outside the chips alone, the memories
apart. -/
theorem exec_outside {i : Instr} {s t : State} (h7 : rowOpcode i ≠ 0x07) (h8 : rowOpcode i ≠ 0x08)
    (h2 : rowOpcode i ≠ 0x02) (h3 : rowOpcode i ≠ 0x03) (hB : rowOpcode i ≠ 0x0B) (h : exec i s = .next t) :
    sameOutsideChips s t := by
  cases i with
  | writeFreqLo win v val | writeFreqHi win v val | writePwLo win v val | writePwHi win v val | writeWave win v val
  | writeAd win v val | writeSr win v val | writeFcLo win val | writeFcHi win val | writeResFilt win val
  | writeModeVol win val | writeUnmapped addr val => exact writeBus_outside h
  | clockAll => exact forEach_outside (fun _ _ _ => clockAt_outside) h
  | synthAll traceEn offset => exact forEach_outside (fun _ _ _ => synthAt_outside) h
  | synthAllStripped offset => exact forEach_outside (fun _ _ _ => synthStrippedAt_outside) h
  | setModels bits =>
    cases h
    obtain ⟨hreg, _, _, hport, hresp, _⟩ := foldl_setModelAt_outside bits (activeChips s) s
    exact ⟨hreg, hport, hresp⟩
  | digiCtrlResetCount c => exact digiCtrl_outside (f := resetCount) h
  | digiCtrlDisable c => exact digiCtrl_outside (f := disableDetector) h
  | digiCtrlEnable c => exact digiCtrl_outside (f := enableDetector) h
  | digiCtrlReset c => exact digiCtrl_outside (f := detectorReset) h
  | clock c =>
    simp only [exec, execClock] at h
    split at h
    · cases h; exact sameOutsideChips_refl s
    · exact clockAt_outside h
  | synth c scale clearFlag traceEn offset =>
    simp only [exec, execSynth] at h
    split at h
    · cases h; exact sameOutsideChips_refl s
    · exact synthAt_outside h
  | synthStripped c scale clearFlag offset =>
    simp only [exec, execSynthStripped] at h
    split at h
    · cases h; exact sameOutsideChips_refl s
    · exact synthStrippedAt_outside h
  | reset c =>
    simp only [exec, execReset] at h
    split at h
    · cases h; exact sameOutsideChips_refl s
    · split at h
      · cases h
      · cases h; exact ⟨rfl, rfl, rfl⟩
  | reserved op => cases h; exact sameOutsideChips_refl s
  | readBus | readOsc3 | readEnv3 => exact absurd rfl h2
  | peekBus | peekOsc3 | peekEnv3 => exact absurd rfl h3
  | digiQueryType | digiQueryRate | digiQueryDesc | digiQueryReserved => exact absurd rfl hB
  | resetAll => exact absurd rfl h7
  | configSrate | configCrate | configFlags | configCount | configChip | configReserved => exact absurd rfl h8

/-- RESETALL completes only where no rate is 0 and no base is bad, and leaves `resetAllState` (45_registry.md R339). -/
theorem exec_resetAll_eq_next {s t : State} :
    exec .resetAll s = .next t ↔
      s.resetAllLegal = true ∧ t = resetAllState s (clampCount s.registry) := by
  simp only [exec, execResetAll, State.resetAllLegal]
  split
  · next h => simp [h]
  · next h =>
    split
    · next h' => simp [h']
    · next h' => simp [h, h', eq_comm]

/-- RESETALL writes `N_USED` and `LUT` of the registry, and nothing else outside the chips. -/
theorem resetAllState_outside (s : State) (n : Fin 11) :
    (resetAllState s n).registry = { s.registry with nUsed := n, lut := rebuildLut s.registry n.val }
      ∧ (resetAllState s n).pcm = s.pcm ∧ (resetAllState s n).traces = s.traces
      ∧ (resetAllState s n).port = s.port ∧ (resetAllState s n).responses = s.responses
      ∧ (resetAllState s n).ramReads = s.ramReads := by
  obtain ⟨hreg, hrest⟩ := foldl_chipResetAt_registry (chipsBelow n.val) s
  refine ⟨?_, hrest⟩
  simp only [resetAllState, hreg]

/-- A command that writes no configuration register and is not RESETALL leaves the registry alone. -/
theorem exec_registry {i : Instr} {s t : State} (h7 : rowOpcode i ≠ 0x07) (h8 : rowOpcode i ≠ 0x08)
    (h : exec i s = .next t) : t.registry = s.registry := by
  by_cases hres : ∃ op, i = .reserved op
  · obtain ⟨op, rfl⟩ := hres
    cases h
    rfl
  by_cases hop : rowOpcode i = 0x02 ∨ rowOpcode i = 0x03 ∨ rowOpcode i = 0x0B
  · obtain ⟨w, rfl⟩ := exec_answers hop (not_exists.mp hres) h
    rfl
  · simp only [not_or] at hop
    exact (exec_outside h7 h8 hop.1 hop.2.1 hop.2.2 h).1

/-! ### The memories (20_memory.md R61) -/

/-- Every command but the four render commands leaves the five memories as they are. -/
theorem exec_memories {i : Instr} {s t : State} (h5 : rowOpcode i ≠ 0x05) (h6 : rowOpcode i ≠ 0x06)
    (hD : rowOpcode i ≠ 0x0D) (hE : rowOpcode i ≠ 0x0E) (h : exec i s = .next t) :
    t.pcm = s.pcm ∧ t.traces = s.traces := by
  cases i with
  | writeFreqLo win v val | writeFreqHi win v val | writePwLo win v val | writePwHi win v val | writeWave win v val
  | writeAd win v val | writeSr win v val | writeFcLo win val | writeFcHi win val | writeResFilt win val
  | writeModeVol win val | writeUnmapped addr val => exact writeBus_memories h
  | readBus addr | readOsc3 win | readEnv3 win | peekBus addr | peekOsc3 win | peekEnv3 win =>
    exact readBusWith_memories h
  | clockAll =>
    exact forEach_keeps (P := fun u => u.pcm = s.pcm ∧ u.traces = s.traces)
      (fun i u v huv hu => ⟨(clockAt_memories huv).1.trans hu.1, (clockAt_memories huv).2.trans hu.2⟩) _ s t h
      ⟨rfl, rfl⟩
  | clock c =>
    simp only [exec, execClock] at h
    split at h
    · cases h; exact ⟨rfl, rfl⟩
    · exact clockAt_memories h
  | resetAll =>
    obtain ⟨_, rfl⟩ := exec_resetAll_eq_next.mp h
    obtain ⟨_, hpcm, htraces, _⟩ := resetAllState_outside s (clampCount s.registry)
    exact ⟨hpcm, htraces⟩
  | setModels bits =>
    cases h
    obtain ⟨_, hpcm, htraces, _⟩ := foldl_setModelAt_outside bits (activeChips s) s
    exact ⟨hpcm, htraces⟩
  | digiCtrlResetCount c => exact digiCtrl_memories (f := resetCount) h
  | digiCtrlDisable c => exact digiCtrl_memories (f := disableDetector) h
  | digiCtrlEnable c => exact digiCtrl_memories (f := enableDetector) h
  | digiCtrlReset c => exact digiCtrl_memories (f := detectorReset) h
  | digiQueryType c => exact digiQuery_memories (f := fun d => digiTypeCode d.type) h
  | digiQueryRate c => exact digiQuery_memories (f := digiRate) h
  | digiQueryDesc c => exact digiQuery_memories (f := fun d => digiTypeCode d.type) h
  | digiQueryReserved c => exact digiQuery_memories (f := fun _ => 0) h
  | reset c =>
    simp only [exec, execReset] at h
    split at h
    · cases h; exact ⟨rfl, rfl⟩
    · split at h
      · cases h
      · cases h; exact ⟨rfl, rfl⟩
  | configSrate | configCrate | configFlags | configCount | configChip | configReserved | reserved =>
    cases h; exact ⟨rfl, rfl⟩
  | synthAll => exact absurd rfl h5
  | synthAllStripped => exact absurd rfl h6
  | synth => exact absurd rfl hD
  | synthStripped => exact absurd rfl hE

theorem sameMemory_of_eq {s t : State} (hpcm : t.pcm = s.pcm) (htraces : t.traces = s.traces) : sameMemory s t := by
  refine ⟨fun a _ => by rw [hpcm], fun a _ => ?_⟩
  rw [htraces]
  exact ⟨fun _ => rfl, rfl⟩

/-! ### The life of a chip (45_registry.md R346) -/

/-- A chip that has been reset stays so, whatever command it is given. -/
theorem chipMove_initialised (i : Fin 10) (c d : Chip) (h : ChipMove i c d) (hc : c.life ≠ .uninit) :
    d.life ≠ .uninit := by
  refine chipMove_keeps (P := fun _ c => c.life ≠ .uninit) ?write (fun _ _ _ _ => by simp [clockChip]) ?render ?stripped
    ?count (fun _ _ h => h) (fun _ _ h => h) (fun _ _ h => h) (fun _ _ _ h => h) (fun _ _ _ _ _ => by simp [resetChip])
    i c d h hc
  case write =>
    intro _ a val poke c hp _ _
    rw [writeChip_outside_registers a val hp c]
    simp
  case render =>
    intro _ extEn traceEn scale reads c _ _
    rw [synthTick_frame extEn traceEn scale reads c]
    simp
  case stripped =>
    intro _ extEn scale c _ _
    rw [strippedTick_life]
    simp
  case count =>
    intro _ c h
    rw [resetCount_frame c]
    exact h

/-- From `s` to `t` each chip has kept its `LIFE` or, once reset, become active. -/
def LifeMoves (s t : State) : Prop :=
  ∀ j, (t.chip j).life = (s.chip j).life ∨ (s.chip j).life ≠ .uninit ∧ (t.chip j).life = .active

theorem lifeMoves_refl {s t : State} (h : t.chips = s.chips) : LifeMoves s t := fun j => .inl (by simp [State.chip, h])

theorem lifeMoves_trans {s t u : State} (h : LifeMoves s t) (k : LifeMoves t u) : LifeMoves s u := by
  intro j
  rcases h j with h | ⟨h, h'⟩ <;> rcases k j with k | ⟨k, k'⟩
  · exact .inl (k.trans h)
  · exact .inr ⟨h ▸ k, k'⟩
  · exact .inr ⟨h, k.trans h'⟩
  · exact .inr ⟨h, k'⟩

theorem lifeMoves_one {s t : State} {i : Fin 10} {c : Chip} (hi : (s.chip i).life ≠ .uninit) (hc : c.life = .active)
    (ht : t.chips = (s.setChip i c).chips) : LifeMoves s t := by
  intro j
  have hj : t.chip j = (s.setChip i c).chip j := by simp [State.chip, ht]
  rw [hj, chip_setChip]
  split
  · next e =>
    subst e
    exact .inr ⟨hi, hc⟩
  · exact .inl rfl

theorem writeBus_lifeMoves {a : Addr} {val : Byte} {poke : Chip → Chip} (hp : RegisterRule poke) {s t : State}
    (h : writeBus a val poke s = .next t) : LifeMoves s t := by
  simp only [writeBus, onBus_eq_next, Host.Outcome.next.injEq] at h
  obtain ⟨i, hi, rfl⟩ := h
  refine lifeMoves_one hi.2 ?_ rfl
  rw [writeChip_outside_registers a val hp]

theorem clockAt_lifeMoves {i : Fin 10} {s t : State} (h : clockAt i s = .next t) : LifeMoves s t := by
  simp only [clockAt, onInitialised_eq_next, Host.Outcome.next.injEq] at h
  obtain ⟨hi, rfl⟩ := h
  exact lifeMoves_one hi rfl rfl

theorem synthTick_life (extEn traceEn : Bool) (scale : Byte) (reads : Nat) (c : Chip) :
    (synthTick extEn traceEn scale reads c).chip.life = .active :=
  (sameButRendering_life (synthTick_frame extEn traceEn scale reads c) :)

theorem synthAt_lifeMoves {i : Fin 10} {scale : Byte} {clearFlag traceEn : Bool} {offset : BitVec 32} {s t : State}
    (h : synthAt i scale clearFlag traceEn offset s = .next t) : LifeMoves s t := by
  simp only [synthAt, onInitialised_eq_next, Host.Outcome.next.injEq] at h
  obtain ⟨hi, rfl⟩ := h
  exact lifeMoves_one hi (synthTick_life _ _ _ _ _) rfl

theorem synthStrippedAt_lifeMoves {i : Fin 10} {scale : Byte} {clearFlag : Bool} {offset : BitVec 32} {s t : State}
    (h : synthStrippedAt i scale clearFlag offset s = .next t) : LifeMoves s t := by
  simp only [synthStrippedAt, onInitialised_eq_next, Host.Outcome.next.injEq] at h
  obtain ⟨hi, rfl⟩ := h
  exact lifeMoves_one hi (strippedTick_life _ _ _) rfl

theorem forEach_lifeMoves {f : Fin 10 → State → Result} (hf : ∀ i s t, f i s = .next t → LifeMoves s t)
    {l : List (Fin 10)} {s t : State} (h : forEach f l s = .next t) : LifeMoves s t :=
  forEach_keeps (P := LifeMoves s) (fun i u v huv hu => lifeMoves_trans hu (hf i u v huv)) l s t h
    (lifeMoves_refl rfl)

/-- WRITE, CLOCK and the render commands make chips active (45_registry.md R346). -/
theorem exec_lifeMoves {i : Instr} {s t : State}
    (hop : rowOpcode i = 0x01 ∨ rowOpcode i = 0x04 ∨ rowOpcode i = 0x05 ∨ rowOpcode i = 0x06 ∨ rowOpcode i = 0x0C
      ∨ rowOpcode i = 0x0D ∨ rowOpcode i = 0x0E) (h : exec i s = .next t) : LifeMoves s t := by
  cases i with
  | writeFreqLo win v val => exact writeBus_lifeMoves (registerRule_pokeFreqLo v val) h
  | writeFreqHi win v val => exact writeBus_lifeMoves (registerRule_pokeFreqHi v val) h
  | writePwLo win v val => exact writeBus_lifeMoves (registerRule_pokePwLo v val) h
  | writePwHi win v val => exact writeBus_lifeMoves (registerRule_pokePwHi v val) h
  | writeWave win v val => exact writeBus_lifeMoves (registerRule_pokeWave v val) h
  | writeAd win v val => exact writeBus_lifeMoves (registerRule_pokeAd v val) h
  | writeSr win v val => exact writeBus_lifeMoves (registerRule_pokeSr v val) h
  | writeFcLo win val => exact writeBus_lifeMoves (registerRule_pokeFcLo val) h
  | writeFcHi win val => exact writeBus_lifeMoves (registerRule_pokeFcHi val) h
  | writeResFilt win val => exact writeBus_lifeMoves (registerRule_pokeResFilt val) h
  | writeModeVol win val => exact writeBus_lifeMoves (registerRule_pokeModeVol val) h
  | writeUnmapped addr val => exact writeBus_lifeMoves registerRule_pokeUnmapped h
  | clockAll => exact forEach_lifeMoves (fun _ _ _ => clockAt_lifeMoves) h
  | synthAll traceEn offset => exact forEach_lifeMoves (fun _ _ _ => synthAt_lifeMoves) h
  | synthAllStripped offset => exact forEach_lifeMoves (fun _ _ _ => synthStrippedAt_lifeMoves) h
  | clock c =>
    simp only [exec, execClock] at h
    split at h
    · cases h; exact lifeMoves_refl rfl
    · exact clockAt_lifeMoves h
  | synth c scale clearFlag traceEn offset =>
    simp only [exec, execSynth] at h
    split at h
    · cases h; exact lifeMoves_refl rfl
    · exact synthAt_lifeMoves h
  | synthStripped c scale clearFlag offset =>
    simp only [exec, execSynthStripped] at h
    split at h
    · cases h; exact lifeMoves_refl rfl
    · exact synthStrippedAt_lifeMoves h
  | reserved op => cases h; exact lifeMoves_refl rfl
  | _ => simp [rowOpcode] at hop

theorem digiCtrl_life {c : BitVec 8} {f : Chip → Chip} (hf : ∀ c, (f c).life = c.life) {s t : State}
    (h : digiCtrl c s f = .next t) (j : Fin 10) : (t.chip j).life = (s.chip j).life := by
  simp only [digiCtrl, onChip_eq_next, Host.Outcome.next.injEq] at h
  rcases h with ⟨_, rfl⟩ | ⟨i, _, rfl⟩
  · rfl
  · rw [chip_setChip]
    split
    · next e => rw [hf, e]
    · rfl

/-! ### Loops that replace one chip after another -/

/-- A loop over distinct chips that replaces each by a function of what it held and of the registry leaves every other
chip alone. -/
theorem chip_foldl_setChip {g : Fin 10 → Chip → Chip} {f : State → Fin 10 → State}
    (hf : ∀ s i, f s i = s.setChip i (g i (s.chip i))) {l : List (Fin 10)} (hl : l.Nodup) (s : State) (j : Fin 10) :
    (l.foldl f s).chip j = if j ∈ l then g j (s.chip j) else s.chip j := by
  induction l generalizing s with
  | nil => simp
  | cons i rest ih =>
    obtain ⟨hi, hrest⟩ := List.nodup_cons.mp hl
    rw [List.foldl_cons, ih hrest, hf]
    by_cases hj : j = i
    · subst hj
      simp [hi]
    · simp [hj]

theorem chipsBelow_nodup (n : Nat) : (chipsBelow n).Nodup := List.Nodup.filter _ (by decide : chipOrder.Nodup)

theorem chip_foldl_setModelAt (bits : BitVec 10) (s : State) (j : Fin 10) :
    ((activeChips s).foldl (setModelAt bits) s).chip j =
      if j.val < s.registry.nUsed.val then setModel (modelOfBit (bits.getLsbD j.val)) (s.chip j) else s.chip j := by
  rw [chip_foldl_setChip (f := setModelAt bits) (g := fun i => setModel (modelOfBit (bits.getLsbD i.val)))
    (fun _ _ => rfl) (activeChips_nodup s)]
  simp only [mem_activeChips]

/-- Each reset of the loop takes its arguments from the registry, which no reset writes. -/
theorem foldl_chipResetAt_eq (l : List (Fin 10)) (s : State) :
    l.foldl chipResetAt s = l.foldl (fun u i => u.setChip i (resetChip (resetArgs s.registry i))) s := by
  have hgen : ∀ u : State, u.registry = s.registry →
      l.foldl chipResetAt u = l.foldl (fun u i => u.setChip i (resetChip (resetArgs s.registry i))) u := by
    induction l with
    | nil => exact fun _ _ => rfl
    | cons i rest ih =>
      intro u hu
      rw [List.foldl_cons, List.foldl_cons, ← ih (u.setChip i (resetChip (resetArgs s.registry i))) hu,
        chipResetAt, hu]
  exact hgen s rfl

/-- RESETALL resets the chips below the count and no other (45_registry.md R339). -/
theorem chip_resetAllState (s : State) (n : Fin 11) (j : Fin 10) :
    (resetAllState s n).chip j = if j.val < n.val then resetChip (resetArgs s.registry j) else s.chip j := by
  have hchip : (resetAllState s n).chip j = ((chipsBelow n.val).foldl chipResetAt s).chip j := rfl
  rw [hchip, foldl_chipResetAt_eq,
    chip_foldl_setChip (g := fun i _ => resetChip (resetArgs s.registry i)) (fun _ _ => rfl) (chipsBelow_nodup _)]
  simp only [mem_chipsBelow]

/-- No other command moves the life of a chip, RESET and RESETALL apart. -/
theorem exec_life_of_quiet {i : Instr} {s t : State}
    (hop : rowOpcode i ≠ 0x01 ∧ rowOpcode i ≠ 0x04 ∧ rowOpcode i ≠ 0x05 ∧ rowOpcode i ≠ 0x06 ∧ rowOpcode i ≠ 0x0C
      ∧ rowOpcode i ≠ 0x0D ∧ rowOpcode i ≠ 0x0E) (hall : i ≠ .resetAll) (hreset : ∀ c, i ≠ .reset c)
    (h : exec i s = .next t) (j : Fin 10) : (t.chip j).life = (s.chip j).life := by
  cases i with
  | readBus addr | readOsc3 win | readEnv3 win | peekBus addr | peekOsc3 win | peekEnv3 win =>
    obtain ⟨w, rfl⟩ := readBusWith_answers h
    rfl
  | digiQueryType c =>
    obtain ⟨w, rfl⟩ := digiQuery_answers (f := fun d => digiTypeCode d.type) h
    rfl
  | digiQueryRate c =>
    obtain ⟨w, rfl⟩ := digiQuery_answers (f := digiRate) h
    rfl
  | digiQueryDesc c =>
    obtain ⟨w, rfl⟩ := digiQuery_answers (f := fun d => digiTypeCode d.type) h
    rfl
  | digiQueryReserved c =>
    obtain ⟨w, rfl⟩ := digiQuery_answers (f := fun _ => 0) h
    rfl
  | digiCtrlResetCount c => exact digiCtrl_life (fun c => by rw [resetCount_frame c]) h j
  | digiCtrlDisable c => exact digiCtrl_life (f := disableDetector) (fun _ => rfl) h j
  | digiCtrlEnable c => exact digiCtrl_life (f := enableDetector) (fun _ => rfl) h j
  | digiCtrlReset c => exact digiCtrl_life (f := detectorReset) (fun _ => rfl) h j
  | setModels bits =>
    cases h
    rw [chip_foldl_setModelAt]
    split <;> rfl
  | configSrate | configCrate | configFlags | configCount | configChip | configReserved | reserved =>
    cases h
    rfl
  | resetAll => exact absurd rfl hall
  | reset c => exact absurd rfl (hreset c)
  | _ => simp [rowOpcode] at hop

end Sys2Proof.Machine

namespace Sys2Proof.Machine

open Sys2Proof.Laws

/-! ### The bus and the chips in use (10_state.md R23, R52 to R54) -/

/-- Chip 0, once reset, is at 0xD400. -/
theorem chipMove_chip0Base (i : Fin 10) (c d : Chip) (h : ChipMove i c d)
    (hc : i = 0 → c.life ≠ .uninit → c.base = chip0Base) : i = 0 → d.life ≠ .uninit → d.base = chip0Base := by
  refine chipMove_keeps (P := fun i c => i = 0 → c.life ≠ .uninit → c.base = chip0Base) ?write
    (fun _ _ hl h hi _ => h hi hl) ?render ?stripped ?count (fun _ _ h => h) (fun _ _ h => h) (fun _ _ h => h)
    (fun _ _ _ h => h) (fun _ _ _ _ h0 hi _ => h0 hi) i c d h hc
  case write =>
    intro _ a val poke c hp hl h hi _
    rw [writeChip_outside_registers a val hp c]
    exact h hi hl
  case render =>
    intro _ extEn traceEn scale reads c hl h hi _
    rw [synthTick_frame extEn traceEn scale reads c]
    exact h hi hl
  case stripped =>
    intro _ extEn scale c hl h hi _
    rw [strippedTick_frame extEn scale c]
    exact h hi hl
  case count =>
    intro _ c h
    rw [resetCount_frame c]
    exact h

/-- Only CONFIG CHIP writes the slots, and slot 0 then keeps 0xD400 (45_registry.md R336). -/
theorem exec_slot0 {i : Instr} {s t : State} (h : exec i s = .next t)
    (hs : (s.registry.slots[(0 : Fin 10)]).addr = chip0Base) : (t.registry.slots[(0 : Fin 10)]).addr = chip0Base := by
  by_cases h7 : rowOpcode i = 0x07
  · cases i with
    | resetAll =>
      obtain ⟨_, rfl⟩ := exec_resetAll_eq_next.mp h
      rw [(resetAllState_outside s _).1]
      exact hs
    | reserved op => cases h; exact hs
    | _ => simp [rowOpcode] at h7
  by_cases h8 : rowOpcode i = 0x08
  · cases i with
    | configChip slot base m6581 ovr chan =>
      cases h
      by_cases hslot : slot = 0
      · subst hslot
        simp
      · have hne : slot.val ≠ 0 := fun e => hslot (Fin.ext e)
        simpa [hne] using hs
    | configSrate | configCrate | configFlags | configCount | configReserved | reserved => cases h; exact hs
    | _ => simp [rowOpcode] at h8
  · rw [exec_registry h7 h8 h]
    exact hs

/-- The chips of the table that RESETALL builds are below its count (45_registry.md R341). -/
theorem chip_lt_of_mem_rebuildLut {r : Registry} {n : Nat} (hn : 0 < n) {w : LutWindow} (hw : w ∈ rebuildLut r n) :
    w.chip.val < n := by
  simp only [rebuildLut, List.mem_append, List.mem_reverse, List.mem_map, List.mem_singleton] at hw
  rcases hw with ⟨i, hi, rfl⟩ | rfl
  · simp only [extraChips, List.mem_filter, mem_chipsBelow] at hi
    exact hi.1
  · exact hn

/-- The clamped count: 1 to 3 in the legacy layout, 1 to 10 in the extended one (45_registry.md R340). -/
theorem clampCount_eq (r : Registry) :
    (clampCount r).val = max 1 (min (if r.cfgExtMulti then 10 else 3) r.cfgCount.toNat) := by
  have hcount := r.cfgCount.isLt
  simp only [clampCount, Fin.ofNat]
  split_ifs <;> omega

theorem clampCount_pos (r : Registry) : 0 < (clampCount r).val := by
  rw [clampCount_eq]
  omega

/-- A bus command that reaches a chip reaches one of the table. -/
theorem mem_lut_of_busChip {s : State} {a : Addr} {i : Fin 10} (h : busChip s a = some i) :
    ∃ w ∈ s.registry.lut, w.chip = i := by
  unfold busChip at h
  split at h
  · cases h
  · simp only [lutChip, Option.map_eq_some_iff] at h
    obtain ⟨w, hw, hi⟩ := h
    exact ⟨w, List.mem_of_find?_eq_some hw, hi⟩

theorem exec_busMapsChipsInUse {i : Instr} {s t : State} (h : exec i s = .next t)
    (hs : s.busMapsChipsInUse) : t.busMapsChipsInUse := by
  have hlife : ∀ j, (s.chip j).life ≠ .uninit → (t.chip j).life ≠ .uninit := fun j hj => by
    have hmoves := exec_chipsMove i s t h j
    generalize t.chip j = d at hmoves ⊢
    induction hmoves with
    | refl => exact hj
    | tail _ hm ih => exact chipMove_initialised j _ _ hm ih
  have hsame : t.registry.nUsed = s.registry.nUsed → t.registry.lut = s.registry.lut → t.busMapsChipsInUse := by
    intro hn hlut
    unfold State.busMapsChipsInUse
    rw [hn, hlut]
    exact ⟨fun j hj => hlife j (hs.1 j hj), hs.2⟩
  by_cases h7 : rowOpcode i = 0x07
  · cases i with
    | resetAll =>
      obtain ⟨_, rfl⟩ := exec_resetAll_eq_next.mp h
      unfold State.busMapsChipsInUse
      rw [(resetAllState_outside s _).1]
      refine ⟨fun j hj => ?_, fun w hw => chip_lt_of_mem_rebuildLut (clampCount_pos _) hw⟩
      rw [chip_resetAllState, if_pos hj]
      simp [resetChip]
    | reserved op => cases h; exact hs
    | _ => simp [rowOpcode] at h7
  by_cases h8 : rowOpcode i = 0x08
  · cases i with
    | configSrate | configCrate | configFlags | configCount | configChip | configReserved | reserved =>
      cases h
      exact hsame rfl rfl
    | _ => simp [rowOpcode] at h8
  · have hreg := exec_registry h7 h8 h
    exact hsame (by rw [hreg]) (by rw [hreg])

theorem exec_chip0Fixed {i : Instr} {s t : State} (h : exec i s = .next t)
    (hs : s.chip0Fixed) : t.chip0Fixed := by
  refine ⟨exec_slot0 h hs.1, ?_⟩
  have hbase := chipsMove_keeps (P := fun i c => i = 0 → c.life ≠ .uninit → c.base = chip0Base) chipMove_chip0Base
    (exec_chipsMove i s t h) (fun i hi => by rw [hi]; exact hs.2) 0
  exact hbase rfl

/-- A property of a state that every command keeps and that says nothing of the waiting words, every step
keeps. -/
theorem step_keeps {P : State → Prop} (hport : ∀ s p, P s → P { s with port := p })
    (hexec : ∀ i s t, exec i s = .next t → P s → P t) {s t : State} (h : step s = .next t)
    (hs : P s) : P t := by
  rcases step_eq_next s t h with ⟨_, rfl⟩ | ⟨w, rest, _, hx⟩
  · exact hs
  · exact hexec _ _ _ hx (hport s rest hs)

/-! ### The memories -/

theorem memoriesCanonical_iff (s : State) :
    s.memoriesCanonical = true ↔ allMemories (fun m => Memory.wf m = true) s := by
  have hvoices : (∀ v, Memory.wf (s.traces.voice.get v) = true) ↔
      Memory.wf s.traces.voice.v0 = true ∧ Memory.wf s.traces.voice.v1 = true
        ∧ Memory.wf s.traces.voice.v2 = true :=
    ⟨fun h => ⟨h .v0, h .v1, h .v2⟩, fun ⟨h0, h1, h2⟩ v => by cases v <;> assumption⟩
  simp only [State.memoriesCanonical, allMemories, hvoices, Bool.and_eq_true, and_assoc]

/-- A clipped word stored in a memory without -32768 leaves it without. -/
theorem samplesInRange_writeSample (i : Nat) (x : Int) (m : Memory)
    (h : Memory.wf m = true ∧ samplesInRange m) :
    Memory.wf (writeSample i (clip x) m) = true ∧ samplesInRange (writeSample i (clip x) m) := by
  obtain ⟨hwf, hrange⟩ := h
  refine ⟨wf_writeSample _ _ _ hwf, fun j => ?_⟩
  have hclip := clip_bounds x
  by_cases hj : j = i
  · subst hj
    rw [readSample_writeSample_same _ _ _ hwf (by omega)]
    omega
  · rw [readSample_writeSample_ne _ _ _ _ hj]
    exact hrange j

end Sys2Proof.Machine

namespace Sys2Proof.Proofs

open Sys2Proof.Machine Sys2Proof.Laws

/-- Settles O50: every store of a command is a `writeSample`, which keeps the canonical form. -/
theorem stepKeepsMemoriesCanonical : Obligations.StepKeepsMemoriesCanonical := by
  intro s t hs h
  rw [memoriesCanonical_iff] at hs ⊢
  exact step_keeps (P := allMemories fun m => Memory.wf m = true) (fun _ _ h => h)
    (fun i s t => exec_keeps_memories (fun _ _ _ h => wf_writeSample _ _ _ h) i s t) h hs

/-- Settles O51: every store of a command is of a clipped value, which reads back as it is where the memory is canonical. -/
theorem stepKeepsSamplesInRange : Obligations.StepKeepsSamplesInRange := by
  intro s t hcanonical hs h
  obtain ⟨hpcm, hvoice, hdigi⟩ := (memoriesCanonical_iff s).mp hcanonical
  obtain ⟨hpcm', hvoice', hdigi'⟩ := hs
  obtain ⟨ht, htv, htd⟩ := step_keeps (P := allMemories fun m => Memory.wf m = true ∧ Machine.samplesInRange m)
    (fun _ _ h => h) (fun i s t => exec_keeps_memories samplesInRange_writeSample i s t) h
    ⟨⟨hpcm, hpcm'⟩, fun v => ⟨hvoice v, hvoice' v⟩, hdigi, hdigi'⟩
  exact ⟨ht.2, fun v => (htv v).2, htd.2⟩

/-- Settles O52: RESETALL resets the chips it maps, and no other command moves the table or un-resets a chip. -/
theorem stepKeepsBusOnChipsInUse : Obligations.StepKeepsBusOnChipsInUse := by
  intro s t hbus hzero h
  have htbus : t.busMapsChipsInUse :=
    step_keeps (P := State.busMapsChipsInUse) (fun _ _ h => h) (fun _ _ _ => exec_busMapsChipsInUse) h hbus
  have htzero : t.chip0Fixed :=
    step_keeps (P := State.chip0Fixed) (fun _ _ h => h) (fun _ _ _ => exec_chip0Fixed) h hzero
  refine ⟨htbus, htzero, fun a i ha => ?_⟩
  obtain ⟨w, hw, rfl⟩ := mem_lut_of_busChip ha
  exact htbus.1 _ (htbus.2 w hw)

/-- Settles O53: a capture restores the mutes of the technique before it and sets those of its own. -/
theorem stepKeepsMutesOfTheTechnique : Obligations.StepKeepsMutesOfTheTechnique := fun s t hs h =>
  step_keeps_chips (P := fun _ c => c.mutesFollowSource) chipMove_mutesFollowSource s t h hs

/-- Settles O54: a disabled filter runs no transfer function, and the write that disables it flushes it. -/
theorem stepKeepsDisabledFilterFlushed : Obligations.StepKeepsDisabledFilterFlushed := fun s t hs h =>
  step_keeps_chips (P := fun _ c => c.historyFlushed) chipMove_historyFlushed s t h hs

/-- Settles O55: only a chip reset and SETMODELS write the model, and both write its constants. -/
theorem stepKeepsModelConstants : Obligations.StepKeepsModelConstants := fun s t hs h =>
  step_keeps_chips (P := fun _ c => c.constantsDerived) chipMove_constantsDerived s t h hs

/-- Settles O56: a disabled detector sees no write, and a real file latches and plays nothing. -/
theorem stepKeepsDisabledDetectorInert : Obligations.StepKeepsDisabledDetectorInert := fun s t hs h =>
  step_keeps_chips (P := fun _ c => c.disabledInert ∧ c.realFilePlayerStill) chipMove_inert_and_still s t h hs

/-- Settles O57: a waveform byte that takes FM past `Idle` returns PWM-test to `Idle`, and the other way round. -/
theorem stepKeepsAutomataExclusive : Obligations.StepKeepsAutomataExclusive := fun s t hs h =>
  step_keeps_chips (P := fun _ c => c.automataExclusive) chipMove_automataExclusive s t h hs

/-- Settles O46: the rows other than RESETALL and CONFIG leave the registry alone, and each of those writes its own. -/
theorem registryChangesOnlyInItsCommands : Obligations.RegistryChangesOnlyInItsCommands := by
  intro i s t h
  cases i with
  | resetAll =>
    obtain ⟨_, rfl⟩ := exec_resetAll_eq_next.mp h
    rw [(resetAllState_outside s _).1]
    exact ⟨fun hne => absurd rfl hne, fun _ => rfl, fun _ => rfl, fun _ => ⟨rfl, rfl, rfl, rfl⟩, fun _ => rfl,
      fun _ => rfl⟩
  | configSrate n =>
    cases h
    exact ⟨fun _ => ⟨rfl, rfl⟩, fun hne => absurd rfl (hne n), fun _ => rfl, fun _ => ⟨rfl, rfl, rfl, rfl⟩, fun _ => rfl,
      fun _ => rfl⟩
  | configCrate n =>
    cases h
    exact ⟨fun _ => ⟨rfl, rfl⟩, fun _ => rfl, fun hne => absurd rfl (hne n), fun _ => ⟨rfl, rfl, rfl, rfl⟩, fun _ => rfl,
      fun _ => rfl⟩
  | configFlags f0 f1 f2 f3 =>
    cases h
    exact ⟨fun _ => ⟨rfl, rfl⟩, fun _ => rfl, fun _ => rfl, fun hne => absurd rfl (hne f0 f1 f2 f3), fun _ => rfl,
      fun _ => rfl⟩
  | configCount n =>
    cases h
    exact ⟨fun _ => ⟨rfl, rfl⟩, fun _ => rfl, fun _ => rfl, fun _ => ⟨rfl, rfl, rfl, rfl⟩, fun hne => absurd rfl (hne n),
      fun _ => rfl⟩
  | configChip slot base m ovr chan =>
    cases h
    exact ⟨fun _ => ⟨rfl, rfl⟩, fun _ => rfl, fun _ => rfl, fun _ => ⟨rfl, rfl, rfl, rfl⟩, fun _ => rfl,
      fun hne => absurd rfl (hne slot base m ovr chan)⟩
  | configReserved | reserved =>
    cases h
    exact ⟨fun _ => ⟨rfl, rfl⟩, fun _ => rfl, fun _ => rfl, fun _ => ⟨rfl, rfl, rfl, rfl⟩, fun _ => rfl, fun _ => rfl⟩
  | _ =>
    rw [exec_registry (by simp [rowOpcode]) (by simp [rowOpcode]) h]
    exact ⟨fun _ => ⟨rfl, rfl⟩, fun _ => rfl, fun _ => rfl, fun _ => ⟨rfl, rfl, rfl, rfl⟩, fun _ => rfl, fun _ => rfl⟩

/-- Settles O47: by the row of the command, from what the rows write outside the chips and of the memories. -/
theorem buffersAndResponsesHaveTheirCommands : Obligations.BuffersAndResponsesHaveTheirCommands := by
  intro i s t hwf h
  simp only [opOf_encode]
  have hanswers : (rowOpcode i = 0x02 ∨ rowOpcode i = 0x03 ∨ rowOpcode i = 0x0B) →
      ∃ w, t = { s with responses := s.responses ++ [w] } := by
    intro hop
    refine exec_answers hop ?_ h
    rintro op rfl
    have hres := (isReservedOp_iff op).mp hwf
    rcases hop with e | e | e <;> simp [rowOpcode] at e <;> simp [e] at hres
  have hports : t.port = s.port ∧ (rowOpcode i ≠ 0x02 → rowOpcode i ≠ 0x03 → rowOpcode i ≠ 0x0B →
      t.responses = s.responses) := by
    by_cases hop : rowOpcode i = 0x02 ∨ rowOpcode i = 0x03 ∨ rowOpcode i = 0x0B
    · obtain ⟨w, rfl⟩ := hanswers hop
      exact ⟨rfl, fun h2 h3 hB => absurd hop (by tauto)⟩
    · simp only [not_or] at hop
      obtain ⟨h2, h3, hB⟩ := hop
      cases i with
      | resetAll =>
        obtain ⟨_, rfl⟩ := exec_resetAll_eq_next.mp h
        obtain ⟨_, _, _, hport, hresp, _⟩ := resetAllState_outside s (clampCount s.registry)
        exact ⟨hport, fun _ _ _ => hresp⟩
      | configSrate | configCrate | configFlags | configCount | configChip | configReserved | reserved =>
        cases h
        exact ⟨rfl, fun _ _ _ => rfl⟩
      | _ =>
        obtain ⟨_, hport, hresp⟩ := exec_outside (by simp [rowOpcode]) (by simp [rowOpcode]) h2 h3 hB h
        exact ⟨hport, fun _ _ _ => hresp⟩
  refine ⟨hports.1, fun h5 h6 hD hE => ?_, hanswers, hports.2⟩
  obtain ⟨hpcm, htraces⟩ := exec_memories h5 h6 hD hE h
  exact sameMemory_of_eq hpcm htraces

/-- Settles O48: the waking rows by `LifeMoves`, RESET and RESETALL by the chip reset, the others keep every `LIFE`. -/
theorem chipLifeCycle : Obligations.ChipLifeCycle := by
  intro i s t j h
  simp only [opOf_encode]
  by_cases hwakes : rowOpcode i = 0x01 ∨ rowOpcode i = 0x04 ∨ rowOpcode i = 0x05 ∨ rowOpcode i = 0x06
      ∨ rowOpcode i = 0x0C ∨ rowOpcode i = 0x0D ∨ rowOpcode i = 0x0E
  · rcases exec_lifeMoves hwakes h j with hkept | ⟨hinit, hactive⟩
    · rw [hkept]
      exact ⟨fun h => h, fun h h' => absurd h h', fun _ _ => hwakes⟩
    · rw [hactive]
      exact ⟨fun _ => by simp, fun h => absurd h hinit, fun _ _ => hwakes⟩
  have hreset : (i = .resetAll ∨ ∃ c, i = .reset c) → (t.chip j).life = (s.chip j).life ∨ (t.chip j).life = .reset := by
    rintro (rfl | ⟨c, rfl⟩)
    · obtain ⟨_, rfl⟩ := exec_resetAll_eq_next.mp h
      rw [chip_resetAllState]
      split
      · exact .inr rfl
      · exact .inl rfl
    · simp only [exec, execReset] at h
      split at h
      · cases h; exact .inl rfl
      · split at h
        · cases h
        · cases h
          rw [chipResetAt, chip_setChip]
          split
          · exact .inr rfl
          · exact .inl rfl
  by_cases hr : i = .resetAll ∨ ∃ c, i = .reset c
  · rcases hreset hr with hkept | hfresh
    · rw [hkept]
      exact ⟨fun h => h, fun h h' => absurd h h', fun h h' => absurd (h.symm.trans h') (by simp)⟩
    · rw [hfresh]
      exact ⟨fun _ => by simp, fun _ _ => ⟨hr, rfl⟩, fun _ h => absurd h (by simp)⟩
  · simp only [not_or, not_exists] at hwakes hr
    rw [exec_life_of_quiet hwakes hr.1 hr.2 h j]
    exact ⟨fun h => h, fun h h' => absurd h h', fun h h' => absurd (h.symm.trans h') (by simp)⟩

end Sys2Proof.Proofs

/-! Which commands complete (60_exceptions.md R361, R362), and the machine at power-on (10_state.md R60). -/

namespace Sys2Proof.Machine

open Sys2Proof.Laws

/-! ### Completed or refused -/

/-- A command completes exactly where it is legal, and is else refused for one of the spec's four reasons. -/
def CompletesWhere (ok : Bool) (r : Result) : Prop :=
  (ok = true ∧ ∃ t, r = .next t)
    ∨ (ok = false ∧ ∃ e, r = .refused e
        ∧ (e = .unmappedAddress ∨ e = .uninitialisedChip ∨ e = .badBase ∨ e = .badRate))

theorem completesWhere_next (t : State) : CompletesWhere true (.next t) := .inl ⟨rfl, t, rfl⟩

theorem onInitialised_completes (i : Fin 10) (s : State) {k : Chip → Result} (hk : ∀ c, ∃ t, k c = .next t) :
    CompletesWhere (s.initialised i) (onInitialised i s k) := by
  unfold onInitialised State.initialised
  by_cases h : (s.chip i).life = .uninit
  · exact .inr ⟨by simp [h], .uninitialisedChip, if_pos h, by simp⟩
  · obtain ⟨t, ht⟩ := hk (s.chip i)
    exact .inl ⟨by simp [h], t, (if_neg h).trans ht⟩

theorem onBus_completes (a : Addr) (s : State) {k : Fin 10 → Chip → Result} (hk : ∀ i c, ∃ t, k i c = .next t) :
    CompletesWhere (s.busLegal a) (onBus a s k) := by
  unfold onBus State.busLegal
  cases busChip s a with
  | none => exact .inr ⟨rfl, .unmappedAddress, rfl, by simp⟩
  | some i => exact onInitialised_completes i s (hk i)

theorem onChip_completes (c : BitVec 8) (s : State) {absent : Result} {k : Fin 10 → Chip → Result}
    (habsent : ∃ t, absent = .next t) (hk : ∀ i c, ∃ t, k i c = .next t) :
    CompletesWhere (s.chipLegal c) (onChip c s absent k) := by
  unfold onChip State.chipLegal
  cases chipIndex c with
  | none => exact .inl ⟨rfl, habsent⟩
  | some i => exact onInitialised_completes i s (hk i)

theorem writeBus_completes (a : Addr) (val : Byte) (poke : Chip → Chip) (s : State) :
    CompletesWhere (s.busLegal a) (writeBus a val poke s) :=
  onBus_completes a s fun _ _ => ⟨_, rfl⟩

theorem readBusWith_completes (a : Addr) (f : Chip → Byte) (s : State) :
    CompletesWhere (s.busLegal a) (readBusWith a f s) :=
  onBus_completes a s fun _ _ => ⟨_, rfl⟩

theorem digiCtrl_completes (c : BitVec 8) (s : State) (f : Chip → Chip) :
    CompletesWhere (s.chipLegal c) (digiCtrl c s f) :=
  onChip_completes c s ⟨_, rfl⟩ fun _ _ => ⟨_, rfl⟩

theorem digiQuery_completes (c : BitVec 8) (s : State) (f : Detector → BitVec 32) :
    CompletesWhere (s.chipLegal c) (digiQuery c s f) :=
  onChip_completes c s ⟨_, rfl⟩ fun _ _ => ⟨_, rfl⟩

/-- A loop over chips completes exactly where each of them has been reset, where a turn does and moves each `LIFE` only
to `ACTIVE`. -/
theorem forEach_completesWhere {f : Fin 10 → State → Result}
    (hf : ∀ i s, CompletesWhere (s.initialised i) (f i s)) (hlife : ∀ i s t, f i s = .next t → LifeMoves s t)
    (l : List (Fin 10)) (s : State) : CompletesWhere (l.all s.initialised) (forEach f l s) := by
  induction l generalizing s with
  | nil => exact completesWhere_next s
  | cons i rest ih =>
    simp only [forEach, List.all_cons]
    rcases hf i s with ⟨hi, t, ht⟩ | ⟨hi, e, he, hreason⟩
    · have hrest : rest.all s.initialised = rest.all t.initialised := by
        have hsame : t.initialised = s.initialised := funext fun j => by
          unfold State.initialised
          rcases hlife i s t ht j with h | ⟨h, h'⟩
          · rw [h]
          · rw [h']
            simp [h]
        rw [hsame]
      rw [ht, hi, hrest, Bool.true_and]
      exact ih t
    · rw [he, hi, Bool.false_and]
      exact .inr ⟨rfl, e, rfl, hreason⟩

theorem clockAt_completesWhere (i : Fin 10) (s : State) : CompletesWhere (s.initialised i) (clockAt i s) :=
  onInitialised_completes i s fun _ => ⟨_, rfl⟩

theorem synthAt_completesWhere (scale : Byte) (clearFlag traceEn : Bool) (offset : BitVec 32) (i : Fin 10) (s : State) :
    CompletesWhere (s.initialised i) (synthAt i scale clearFlag traceEn offset s) :=
  onInitialised_completes i s fun _ => ⟨_, rfl⟩

theorem synthStrippedAt_completesWhere (scale : Byte) (clearFlag : Bool) (offset : BitVec 32) (i : Fin 10) (s : State) :
    CompletesWhere (s.initialised i) (synthStrippedAt i scale clearFlag offset s) :=
  onInitialised_completes i s fun _ => ⟨_, rfl⟩

theorem exec_resetAll_completes (s : State) : CompletesWhere s.resetAllLegal (exec .resetAll s) := by
  simp only [exec, execResetAll, State.resetAllLegal]
  cases badRates s.registry with
  | true => exact .inr ⟨rfl, .badRate, rfl, by simp⟩
  | false =>
    cases badBases s.registry (clampCount s.registry).val with
    | true => exact .inr ⟨rfl, .badBase, rfl, by simp⟩
    | false => exact completesWhere_next _

theorem exec_reset_completes (c : BitVec 8) (s : State) : CompletesWhere (s.resetLegal c) (exec (.reset c) s) := by
  simp only [exec, execReset, State.resetLegal]
  cases chipIndex c with
  | none => exact completesWhere_next s
  | some i =>
    cases badRates s.registry with
    | true => exact .inr ⟨rfl, .badRate, rfl, by simp⟩
    | false => exact completesWhere_next _

/-- Every command completes exactly where `legal` admits it. -/
theorem exec_completesWhere_legal (i : Instr) (s : State) : CompletesWhere (legal i s) (exec i s) := by
  cases i with
  | writeFreqLo win v val | writeFreqHi win v val | writePwLo win v val | writePwHi win v val | writeWave win v val
  | writeAd win v val | writeSr win v val | writeFcLo win val | writeFcHi win val | writeResFilt win val
  | writeModeVol win val | writeUnmapped addr val => exact writeBus_completes _ _ _ s
  | readBus addr => exact readBusWith_completes addr (fun c => c.bus) s
  | peekBus addr => exact readBusWith_completes addr (fun c => c.bus) s
  | readOsc3 win | peekOsc3 win => exact readBusWith_completes (busAddr win 0x1B) liveOsc3 s
  | readEnv3 win | peekEnv3 win => exact readBusWith_completes (busAddr win 0x1C) liveEnv3 s
  | clockAll => exact forEach_completesWhere clockAt_completesWhere (fun _ _ _ => clockAt_lifeMoves) _ s
  | synthAll traceEn offset =>
    exact forEach_completesWhere (fun i s => synthAt_completesWhere _ _ _ _ i s) (fun _ _ _ => synthAt_lifeMoves) _ s
  | synthAllStripped offset =>
    exact forEach_completesWhere (fun i s => synthStrippedAt_completesWhere _ _ _ i s)
      (fun _ _ _ => synthStrippedAt_lifeMoves) _ s
  | resetAll => exact exec_resetAll_completes s
  | reset c => exact exec_reset_completes c s
  | digiCtrlResetCount c => exact digiCtrl_completes c s resetCount
  | digiCtrlDisable c => exact digiCtrl_completes c s disableDetector
  | digiCtrlEnable c => exact digiCtrl_completes c s enableDetector
  | digiCtrlReset c => exact digiCtrl_completes c s detectorReset
  | digiQueryType c => exact digiQuery_completes c s fun d => digiTypeCode d.type
  | digiQueryRate c => exact digiQuery_completes c s digiRate
  | digiQueryDesc c => exact digiQuery_completes c s fun d => digiTypeCode d.type
  | digiQueryReserved c => exact digiQuery_completes c s fun _ => 0
  | clock c =>
    simp only [exec, execClock, legal, State.chipLegal]
    cases chipIndex c with
    | none => exact completesWhere_next s
    | some i => exact clockAt_completesWhere i s
  | synth c scale clearFlag traceEn offset =>
    simp only [exec, execSynth, legal, State.chipLegal]
    cases chipIndex c with
    | none => exact completesWhere_next s
    | some i => exact synthAt_completesWhere _ _ _ _ i s
  | synthStripped c scale clearFlag offset =>
    simp only [exec, execSynthStripped, legal, State.chipLegal]
    cases chipIndex c with
    | none => exact completesWhere_next s
    | some i => exact synthStrippedAt_completesWhere _ _ _ i s
  | configSrate | configCrate | configFlags | configCount | configChip | configReserved | setModels | reserved =>
    exact completesWhere_next _

/-! ### Power-on -/

@[simp] theorem chip_reset (i : Fin 10) : State.reset.chip i = powerOnChip := by
  simp [State.chip, State.reset]

theorem busChip_reset (a : Addr) : busChip State.reset a = none := by
  unfold busChip
  split <;> rfl

/-- With nothing on the bus every bus command is refused. -/
theorem onBus_of_unmapped {a : Addr} {s : State} (h : busChip s a = none) (k : Fin 10 → Chip → Result) :
    onBus a s k = .refused .unmappedAddress := by
  simp [onBus, h]

/-- The commands of the rows WRITE, READ and PEEK are refused where the table maps nothing. -/
theorem exec_of_nothing_mapped {i : Instr} {s : State} (hs : ∀ a, busChip s a = none) (hnot : ∀ op, i ≠ .reserved op)
    (hop : rowOpcode i = 0x01 ∨ rowOpcode i = 0x02 ∨ rowOpcode i = 0x03) : exec i s = .refused .unmappedAddress := by
  cases i with
  | writeFreqLo | writeFreqHi | writePwLo | writePwHi | writeWave | writeAd | writeSr | writeFcLo | writeFcHi
  | writeResFilt | writeModeVol | writeUnmapped | readBus | readOsc3 | readEnv3 | peekBus | peekOsc3 | peekEnv3 =>
    exact onBus_of_unmapped (hs _) _
  | reserved op => exact absurd rfl (hnot op)
  | _ => simp [rowOpcode] at hop

end Sys2Proof.Machine

namespace Sys2Proof.Proofs

open Sys2Proof.Machine Sys2Proof.Laws

/-- Settles O45: each test of a command is a clause of `legal`. -/
theorem commandsCompleteOrAreRefused : Obligations.CommandsCompleteOrAreRefused := exec_completesWhere_legal

/-- Settles O58: each property of the empty memories, the empty table and the zero chip. -/
theorem powerOnHasEveryProperty : Obligations.PowerOnHasEveryProperty := by
  have hempty : Machine.samplesInRange [] := fun i => by simp [readSample, readWord, unlistedByte]
  refine ⟨rfl, ⟨hempty, fun v => by cases v <;> exact hempty, hempty⟩, ?bus, ?chip0, fun i => ?chip⟩
  case bus => exact ⟨fun i hi => absurd hi (Nat.not_lt_zero _), fun w hw => nomatch hw⟩
  case chip0 => exact ⟨rfl, fun h => absurd (by rw [chip_reset]; rfl) h⟩
  case chip =>
    rw [chip_reset]
    refine ⟨⟨rfl, rfl, rfl⟩, fun _ => ⟨rfl, rfl⟩, fun h => absurd rfl h, fun _ => ⟨rfl, rfl, rfl, rfl, rfl, rfl, rfl⟩,
      fun _ => rfl, fun v => .inl ?_⟩
    cases v <;> rfl

/-- Settles O59: with an empty table no address reaches a chip. -/
theorem powerOn : Obligations.PowerOn := by
  refine ⟨fun i => by rw [chip_reset]; rfl, rfl, rfl, rfl, rfl, rfl, rfl, rfl, rfl, by decide, busChip_reset,
    fun w hw => ?_⟩
  obtain ⟨hrow, hwf⟩ := decodeFields_row (opOf w) (selOf w) (addrOf w) (dataOf w)
  have hdecode : decode w = decodeFields (opOf w) (selOf w) (addrOf w) (dataOf w) := rfl
  rw [← hdecode] at hrow hwf
  refine exec_of_nothing_mapped busChip_reset (fun op hop => ?_) (hrow ▸ hw)
  rw [hop] at hrow hwf
  have hres := (isReservedOp_iff op).mp hwf
  have hopw : op = opOf w := hrow
  rw [hopw] at hres
  rcases hw with e | e | e <;> simp [e] at hres

end Sys2Proof.Proofs

/-! Register access (40_register_access.md): what the detector does at each offset, and from it what each WRITE does to
the chip it reaches. -/

namespace Sys2Proof.Machine

open Sys2Proof.Laws

/-! ### The detector by offset (43_digi_detector.md R216) -/

/-- A WRITE to register `r` of voice `v` is seen by that voice's algorithms. -/
theorem detectSample_voiceReg (win : BitVec 11) (v : Voice) {r : Nat} (hr : r < 7) (val : Byte) (c : Chip) :
    detectSample (busAddr win (voiceReg v r)) val c = if c.det.en then detectVoice v r val c else (c, false) := by
  obtain ⟨hle, hvoice, hreg⟩ := voice_of_voiceReg v hr
  have hmapped : isUnmappedReg (regOf (busAddr win (voiceReg v r))) = false := by
    rw [regOf_busAddr]
    exact decide_eq_false (by omega)
  rw [detectSample_of_mapped _ _ _ hmapped, regOf_busAddr, detectAt, if_pos hle, hvoice, hreg]

/-- A WRITE to a voice register that no algorithm watches moves nothing of the detector. -/
theorem detectSample_unwatched_voiceReg (win : BitVec 11) (v : Voice) {r : Nat} (hr : r = 0 ∨ r = 5 ∨ r = 6)
    (val : Byte) (c : Chip) : detectSample (busAddr win (voiceReg v r)) val c = (c, false) := by
  rw [detectSample_voiceReg win v (by omega), detectVoice_unwatched v (by omega), ite_self]

/-- A WRITE to a filter register but 0x18 moves nothing of the detector. -/
theorem detectSample_filterReg (win : BitVec 11) {reg : BitVec 5} (hreg : 0x15 ≤ reg.toNat ∧ reg.toNat ≤ 0x17)
    (val : Byte) (c : Chip) : detectSample (busAddr win reg) val c = (c, false) := by
  have hmapped : isUnmappedReg (regOf (busAddr win reg)) = false := by
    rw [regOf_busAddr]
    exact decide_eq_false (by omega)
  rw [detectSample_of_mapped _ _ _ hmapped, regOf_busAddr, detectAt_of_unwatched _ _ _ (by omega) (by omega), ite_self]

/-- A WRITE to 0x18 is a volume sample. -/
theorem detectSample_modeVol (win : BitVec 11) (val : Byte) (c : Chip) :
    detectSample (busAddr win 0x18) val c = if c.det.en then d418Detect val c else (c, false) := by
  have hmapped : isUnmappedReg (regOf (busAddr win 0x18)) = false := by
    rw [regOf_busAddr]
    decide
  rw [detectSample_of_mapped _ _ _ hmapped, regOf_busAddr]
  rfl

/-- A WRITE that the detector does not see moves `LIFE`, the bus latch, and what the register's rule moves. -/
theorem writeChip_of_unseen {a : Addr} {val : Byte} {poke : Chip → Chip} {c : Chip}
    (h : ∀ d : Chip, detectSample a val d = (d, false)) :
    writeChip a val poke c = poke { c with life := .active, bus := val } := by
  rw [writeChip_eq, h]

/-! ### The getters over a written register (10_state.md R27) -/

theorem getFreq_of_set_freqLo {c c' : Chip} {v : Voice} {val : Byte}
    (h : c'.regs = c.regs.set v { c.regs.get v with freqLo := val }) :
    getFreq c' v = (getFreq c v).extractLsb' 8 8 ++ val := by
  simp only [getFreq, h, PerVoice.get_set_same, BitVec.extractLsb'_append_eq_left]

theorem getPulse_of_set_pwLo {c c' : Chip} {v : Voice} {val : Byte}
    (h : c'.regs = c.regs.set v { c.regs.get v with pwLo := val }) :
    getPulse c' v = (getPulse c v).extractLsb' 8 4 ++ val := by
  simp only [getPulse, h, PerVoice.get_set_same, BitVec.extractLsb'_append_eq_left]

theorem getPulse_of_set_pwHi {c c' : Chip} {v : Voice} {val : Byte}
    (h : c'.regs = c.regs.set v { c.regs.get v with pwHi := val }) :
    getPulse c' v = val.extractLsb' 0 4 ++ (getPulse c v).extractLsb' 0 8 := by
  simp only [getPulse, h, PerVoice.get_set_same, BitVec.extractLsb'_append_eq_right]

/-! ### The mode bits (R148) -/

theorem modesOff_setModeBits (val : Byte) (f : Filter) :
    modesOff (setModeBits val f) = true ↔ val.extractLsb' 4 3 = 0 := by
  rw [modesOff_iff]
  refine ⟨fun ⟨h4, h5, h6⟩ => ?_, fun h => ⟨?_, ?_, ?_⟩⟩
  · simp only [setModeBits] at h4 h5 h6
    ext j hj
    simp only [BitVec.getElem_extractLsb']
    obtain rfl | rfl | rfl : j = 0 ∨ j = 1 ∨ j = 2 := by omega
    · simpa using h4
    · simpa using h5
    · simpa using h6
  · simpa [setModeBits] using congrArg (fun x : BitVec 3 => x.getLsbD 0) h
  · simpa [setModeBits] using congrArg (fun x : BitVec 3 => x.getLsbD 1) h
  · simpa [setModeBits] using congrArg (fun x : BitVec 3 => x.getLsbD 2) h

/-- The filter after a write to 0x18: the bits of the byte, and with all three mode bits 0 no history. -/
theorem pokeMode_eq (val : Byte) (f : Filter) :
    pokeMode val f =
      { f with
        lp := val.getLsbD 4, bp := val.getLsbD 5, hp := val.getLsbD 6, v3off := val.getLsbD 7
        fh := if val.extractLsb' 4 3 = 0 then ⟨0, 0, 0⟩ else f.fh
        fs := if val.extractLsb' 4 3 = 0 then ⟨⟨0, 0, 0⟩, ⟨0, 0, 0⟩, ⟨0, 0, 0⟩⟩ else f.fs } := by
  have hoff := modesOff_setModeBits val f
  unfold pokeMode
  by_cases h : val.extractLsb' 4 3 = 0
  · rw [if_pos (hoff.mpr h), if_pos h, if_pos h]
    rfl
  · rw [if_neg (fun e => h (hoff.mp e)), if_neg h, if_neg h]
    rfl

end Sys2Proof.Machine

namespace Sys2Proof.Proofs

open Sys2Proof.Machine Sys2Proof.Laws

/-- Settles O8: at offsets 7v + 0, 5 and 6 the detector answers the chip it was given. -/
theorem unwatchedVoiceWrites : Obligations.UnwatchedVoiceWrites := by
  intro win v val s i
  have hunseen : ∀ {r : Nat}, r = 0 ∨ r = 5 ∨ r = 6 → ∀ d, detectSample (busAddr win (voiceReg v r)) val d = (d, false) :=
    fun hr d => detectSample_unwatched_voiceReg win v hr val d
  refine ⟨?freqLo, ?ad, ?sr⟩
  case freqLo =>
    intro h c c'
    refine ⟨(writeBus_of_reaches val (pokeFreqLo v val) h).trans ?_, getFreq_of_set_freqLo rfl,
      onlyChip_setChip i s c'⟩
    rw [writeChip_of_unseen (hunseen (.inl rfl))]
    rfl
  case ad =>
    intro h c c'
    refine ⟨(writeBus_of_reaches val (pokeAd v val) h).trans ?_, ?_, onlyChip_setChip i s c'⟩
    · rw [writeChip_of_unseen (hunseen (.inr (.inl rfl)))]
      rfl
    · simp only [getAD, c', PerVoice.get_set_same]
  case sr =>
    intro h c c'
    refine ⟨(writeBus_of_reaches val (pokeSr v val) h).trans ?_, ?_, onlyChip_setChip i s c'⟩
    · rw [writeChip_of_unseen (hunseen (.inr (.inr rfl)))]
      rfl
    · simp only [getSR, c', PerVoice.get_set_same]

/-- Settles O10: the detector's part is `writeChip_eq`, and the register's rule is applied after it. -/
theorem pwLoWrite : Obligations.PwLoWrite := by
  intro win v val s i h c d c'
  refine ⟨(writeBus_of_reaches val (pokePwLo v val) h).trans ?_, getPulse_of_set_pwLo rfl, onlyChip_setChip i s c'⟩
  rw [writeChip_eq]
  rfl

/-- Settles O11: the register takes the byte, and `getPulse` its low four bits. -/
theorem pwHiWrite : Obligations.PwHiWrite := by
  intro win v val s i h c d c'
  refine ⟨(writeBus_of_reaches val (pokePwHi v val) h).trans ?_, getPulse_of_set_pwHi rfl, onlyChip_setChip i s c'⟩
  rw [writeChip_eq]
  rfl

/-- Settles O12: the register's rule hands the byte to the oscillator and to the envelope. -/
theorem waveWrite : Obligations.WaveWrite := by
  intro win v val s i h c d c'
  refine ⟨(writeBus_of_reaches val (pokeWave v val) h).trans ?_, ?_, onlyChip_setChip i s c'⟩
  · rw [writeChip_eq]
    rfl
  · simp only [getWave, c', PerVoice.get_set_same]

/-- Settles O13: at offsets 0x15 to 0x17 the detector answers the chip it was given. -/
theorem cutoffAndRoutingWrites : Obligations.CutoffAndRoutingWrites := by
  intro win val s i
  have hunseen : ∀ {reg : BitVec 5}, 0x15 ≤ reg.toNat ∧ reg.toNat ≤ 0x17 →
      ∀ d, detectSample (busAddr win reg) val d = (d, false) := fun hreg d => detectSample_filterReg win hreg val d
  refine ⟨?fcLo, ?fcHi, ?resFilt⟩
  case fcLo =>
    intro h c c'
    refine ⟨(writeBus_of_reaches val (filterPoke (pokeFcLo val)) h).trans ?_, onlyChip_setChip i s c'⟩
    rw [writeChip_of_unseen (hunseen (by decide))]
    rfl
  case fcHi =>
    intro h c c'
    refine ⟨(writeBus_of_reaches val (filterPoke (pokeFcHi val)) h).trans ?_, onlyChip_setChip i s c'⟩
    rw [writeChip_of_unseen (hunseen (by decide))]
    rfl
  case resFilt =>
    intro h c c'
    refine ⟨(writeBus_of_reaches val (filterPoke (pokeResFilt val)) h).trans ?_, onlyChip_setChip i s c'⟩
    rw [writeChip_of_unseen (hunseen (by decide))]
    rfl

/-- Settles O14: the filter's part is `pokeMode_eq`. -/
theorem modeVolWrite : Obligations.ModeVolWrite := by
  intro win val s i h c d off c'
  refine ⟨(writeBus_of_reaches val (pokeModeVol val) h).trans ?_, onlyChip_setChip i s c'⟩
  rw [writeChip_eq]
  simp only [pokeModeVol, filterPoke, pokeMode_eq]
  rfl

/-- Settles O15: at an unmapped offset only the PSID latches see the write, and every pseudo-register lies at one. -/
theorem unmappedWrite : Obligations.UnmappedWrite := by
  refine ⟨?write, fun r sel data => ?map⟩
  case write =>
    intro addr val s i hwf h c p c'
    refine ⟨?_, onlyChip_setChip i s c'⟩
    refine (writeBus_of_reaches val pokeUnmapped h).trans ?_
    rw [writeChip_eq, detectSample_of_unmapped addr val _ hwf]
    by_cases hen : c.det.en = true
    · have hp : p = (psidLatch addr val c).det.psid := if_pos hen
      simp only [c', hp]
      rw [if_pos hen]
      rfl
    · have hp : p = c.det.psid := if_neg hen
      simp only [c', hp]
      rw [if_neg hen]
      rfl
  case map =>
    have hwindow := (Config.psidWindow r).isLt
    have hoffset := (Config.psidOffset r).isLt
    rw [psidMap_toNat, decodeFields_write, decodeWrite_of_unmapped (isUnmappedReg_psidMap r)]
    exact ⟨by omega, by omega, rfl⟩

/-- Settles O17: the two reads of one offset are one operation, which answers the byte and writes nothing else. -/
theorem liveReadsAndPeeks : Obligations.LiveReadsAndPeeks := by
  intro win addr s i
  exact ⟨fun h => ⟨readBusWith_of_reaches liveOsc3 h, readBusWith_of_reaches liveOsc3 h⟩,
    fun h => ⟨readBusWith_of_reaches liveEnv3 h, readBusWith_of_reaches liveEnv3 h⟩,
    fun _ h => readBusWith_of_reaches (fun c => c.bus) h⟩

/-- Settles O18: CLOCK replaces the chip it names by the clocked one. -/
theorem clockAdvancesOneCycle : Obligations.ClockAdvancesOneCycle := by
  intro c s i ⟨hindex, hlife⟩ k k'
  refine ⟨?_, ?_, onlyChip_setChip i s k'⟩
  · have hclock : exec (.clock c) s = clockAt i s := by
      change execClock c s = _
      simp only [execClock, hindex]
    rw [hclock, clockAt_of_life i s hlife]
    rfl
  · exact BitVec.toNat_add k.cyc 1

end Sys2Proof.Proofs

/-! The registry (45_registry.md): the bases RESETALL refuses, the windows it maps; and the control of the detector
(43_digi_detector.md R272 to R278). -/

namespace Sys2Proof.Machine

/-! ### The extra chips and their bases (20_memory.md R64, R66) -/

theorem mem_extraChips (n : Nat) (i : Fin 10) : i ∈ extraChips n ↔ 0 < i.val ∧ i.val < n := by
  simp only [extraChips, List.mem_filter, mem_chipsBelow, decide_eq_true_eq, ne_eq, Fin.ext_iff, Fin.val_zero]
  omega

theorem cfgAddr_of_extra (r : Registry) {i : Fin 10} (hi : 0 < i.val) : cfgAddr r i = (r.slots[i]).addr := by
  have hne : i ≠ 0 := fun e => by simp [e] at hi
  exact if_neg hne

theorem toNat_middleByte (b : Addr) : (b.extractLsb' 4 8).toNat = b.toNat / 16 % 256 := by
  rw [BitVec.extractLsb'_toNat, Nat.shiftRight_eq_div_pow]

theorem badBase_iff (b : Addr) :
    badBase b = true ↔ b.toNat < 0xD000 ∨ 0xDFFF < b.toNat ∨ b.toNat % 32 ≠ 0
      ∨ (0x80 ≤ b.toNat / 16 % 256 ∧ b.toNat / 16 % 256 ≤ 0xDF) ∨ b = 0xD400 := by
  simp only [badBase, decide_eq_true_eq, toNat_middleByte]
  rfl

/-- A slot's base is refused where it is illegal or that of an extra slot before it. -/
theorem slotRefused_iff (r : Registry) {i : Fin 10} (hi : 0 < i.val) :
    slotRefused r i = true ↔ badBase (r.slots[i]).addr = true
      ∨ ∃ j : Fin 10, 0 < j.val ∧ j.val < i.val ∧ (r.slots[j]).addr = (r.slots[i]).addr := by
  simp only [slotRefused, Bool.or_eq_true, List.any_eq_true, mem_extraChips, decide_eq_true_eq, cfgAddr_of_extra r hi]
  refine or_congr Iff.rfl (exists_congr fun j => ?_)
  constructor
  · rintro ⟨⟨h0, hlt⟩, heq⟩
    exact ⟨h0, hlt, cfgAddr_of_extra r h0 ▸ heq⟩
  · rintro ⟨h0, hlt, heq⟩
    exact ⟨⟨h0, hlt⟩, (cfgAddr_of_extra r h0).trans heq⟩

theorem badBases_iff (r : Registry) (n : Nat) :
    badBases r n = true ↔ ∃ i : Fin 10, 0 < i.val ∧ i.val < n ∧ slotRefused r i = true := by
  simp only [badBases, List.any_eq_true, mem_extraChips, and_assoc]

theorem badRates_iff (r : Registry) : badRates r = true ↔ r.cfgSrate = 0 ∨ r.cfgCrate = 0 := by
  simp [badRates]

/-! ### The windows of a legal registry (45_registry.md R341) -/

/-- A legal base of an extra chip is a bus address and a multiple of 32. -/
theorem base_of_not_badBases {r : Registry} {n : Nat} (h : badBases r n = false) {i : Fin 10} (h0 : 0 < i.val)
    (hn : i.val < n) :
    0xD000 ≤ (r.slots[i]).addr.toNat ∧ (r.slots[i]).addr.toNat ≤ 0xDFFF ∧ (r.slots[i]).addr.toNat % 32 = 0 := by
  have hnot : ¬ badBases r n = true := by simp [h]
  have hslot : ¬ slotRefused r i = true := fun hi => hnot ((badBases_iff r n).mpr ⟨i, h0, hn, hi⟩)
  rw [slotRefused_iff r h0, badBase_iff] at hslot
  omega

/-- Two extra chips of a legal registry have two bases. -/
theorem base_injective_of_not_badBases {r : Registry} {n : Nat} (h : badBases r n = false) {i j : Fin 10}
    (hi0 : 0 < i.val) (hin : i.val < n) (hj0 : 0 < j.val) (hjn : j.val < n)
    (heq : (r.slots[i]).addr = (r.slots[j]).addr) : i = j := by
  have hnot : ¬ badBases r n = true := by simp [h]
  have hearlier : ∀ {i j : Fin 10}, 0 < i.val → 0 < j.val → j.val < n → i.val < j.val →
      (r.slots[i]).addr ≠ (r.slots[j]).addr := fun hi0 hj0 hjn hlt heq =>
    hnot ((badBases_iff r n).mpr ⟨_, hj0, hjn, (slotRefused_iff r hj0).mpr (.inr ⟨_, hi0, hlt, heq⟩)⟩)
  rcases Nat.lt_trichotomy i.val j.val with hlt | he | hgt
  · exact absurd heq (hearlier hi0 hj0 hjn hlt)
  · exact Fin.ext he
  · exact absurd heq.symm (hearlier hj0 hi0 hin hgt)

/-- The window of extra chip `i` below the count `n` holds `a`. -/
def inWindow (r : Registry) (n : Nat) (i : Fin 10) (a : Addr) : Prop :=
  0 < i.val ∧ i.val < n ∧ (r.slots[i]).addr.toNat ≤ a.toNat ∧ a.toNat < (r.slots[i]).addr.toNat + 32

theorem inWindow_unique {r : Registry} {n : Nat} (h : badBases r n = false) {i j : Fin 10} {a : Addr}
    (hi : inWindow r n i a) (hj : inWindow r n j a) : i = j := by
  obtain ⟨hi0, hin, hile, hilt⟩ := hi
  obtain ⟨hj0, hjn, hjle, hjlt⟩ := hj
  have hbi := base_of_not_badBases h hi0 hin
  have hbj := base_of_not_badBases h hj0 hjn
  exact base_injective_of_not_badBases h hi0 hin hj0 hjn (BitVec.eq_of_toNat_eq (by omega))

theorem chipWindow_holds_iff (r : Registry) {i : Fin 10} (hi : 0 < i.val) (a : Addr) :
    (chipWindow r i).holds a = true ↔
      (r.slots[i]).addr.toNat ≤ a.toNat ∧ a.toNat < (r.slots[i]).addr.toNat + 32 := by
  simp only [LutWindow.holds, chipWindow, cfgAddr_of_extra r hi, decide_eq_true_eq]

/-- The table's first window that holds `a`, among those of the extra chips. -/
theorem find?_chipWindows_eq_some {r : Registry} {n : Nat} {a : Addr} {w : LutWindow}
    (h : ((extraChips n).map (chipWindow r)).reverse.find? (fun w => w.holds a) = some w) :
    ∃ i, inWindow r n i a ∧ w = chipWindow r i := by
  have hmem := List.mem_of_find?_eq_some h
  have hholds := List.find?_some h
  simp only [List.mem_reverse, List.mem_map, mem_extraChips] at hmem
  obtain ⟨i, ⟨h0, hn⟩, rfl⟩ := hmem
  exact ⟨i, ⟨h0, hn, (chipWindow_holds_iff r h0 a).mp hholds⟩, rfl⟩

theorem find?_chipWindows_eq_none {r : Registry} {n : Nat} {a : Addr} :
    ((extraChips n).map (chipWindow r)).reverse.find? (fun w => w.holds a) = none ↔ ∀ i, ¬ inWindow r n i a := by
  simp only [List.find?_eq_none, List.mem_reverse, List.mem_map, mem_extraChips]
  constructor
  · rintro h i ⟨h0, hn, hle, hlt⟩
    exact h _ ⟨i, ⟨h0, hn⟩, rfl⟩ ((chipWindow_holds_iff r h0 a).mpr ⟨hle, hlt⟩)
  · rintro h _ ⟨i, ⟨h0, hn⟩, rfl⟩ hholds
    exact h i ⟨h0, hn, (chipWindow_holds_iff r h0 a).mp hholds⟩

/-- In the table of a legal registry an extra chip's window is its own. -/
theorem lutChip_rebuildLut_of_window {r : Registry} {n : Nat} (h : badBases r n = false) {i : Fin 10} {a : Addr}
    (hi : inWindow r n i a) : lutChip (rebuildLut r n) a = some i := by
  unfold lutChip rebuildLut
  rw [List.find?_append]
  cases hfind : ((extraChips n).map (chipWindow r)).reverse.find? (fun w => w.holds a) with
  | none => exact absurd hi (find?_chipWindows_eq_none.mp hfind i)
  | some w =>
    obtain ⟨j, hj, rfl⟩ := find?_chipWindows_eq_some hfind
    have hij : i = j := inWindow_unique h hi hj
    rw [hij]
    rfl

/-- Outside every extra chip's window the table has chip 0's mirrors and nothing else. -/
theorem lutChip_rebuildLut_of_no_window {r : Registry} {n : Nat} {a : Addr} (h : ∀ i, ¬ inWindow r n i a) :
    lutChip (rebuildLut r n) a = if 0xD400 ≤ a.toNat ∧ a.toNat ≤ 0xD7FF then some 0 else none := by
  have hholds : chip0Window.holds a = decide (0xD400 ≤ a.toNat ∧ a.toNat ≤ 0xD7FF) := by
    have hbase : chip0Base.toNat = 0xD400 := rfl
    simp only [LutWindow.holds, chip0Window, hbase]
    congr 1
    apply propext
    omega
  unfold lutChip rebuildLut
  rw [List.find?_append, find?_chipWindows_eq_none.mpr h, Option.none_or, List.find?_singleton, hholds]
  by_cases hmirror : 0xD400 ≤ a.toNat ∧ a.toNat ≤ 0xD7FF
  · simp [hmirror, chip0Window]
  · simp [hmirror]

/-! ### RESET (45_registry.md R337, R338) -/

/-- RESET of a chip, where no rate is 0, resets that chip. -/
theorem exec_reset_of_rates {c : BitVec 8} {i : Fin 10} (hc : chipIndex c = some i) {s : State}
    (h : badRates s.registry = false) : exec (.reset c) s = .next (chipResetAt s i) := by
  simp only [exec, execReset, hc, h, Bool.false_eq_true, if_false]

theorem exec_reset_of_badRates {c : BitVec 8} {i : Fin 10} (hc : chipIndex c = some i) {s : State}
    (h : badRates s.registry = true) : exec (.reset c) s = .refused .badRate := by
  simp only [exec, execReset, hc, h, if_true]

/-! ### DIGI_CTRL and DIGI_QUERY (43_digi_detector.md R272 to R278) -/

/-- DIGI_CTRL of a chip that has been reset replaces that chip. -/
theorem digiCtrl_of_selects {c : BitVec 8} {s : State} {i : Fin 10} (h : s.selects c i) (f : Chip → Chip) :
    digiCtrl c s f = .next (s.setChip i (f (s.chip i))) :=
  onChip_of_selects c s _ _ i h

/-- DIGI_QUERY of a chip that has been reset answers a word of its detector. -/
theorem digiQuery_of_selects {c : BitVec 8} {s : State} {i : Fin 10} (h : s.selects c i) (f : Detector → BitVec 32) :
    digiQuery c s f = .next { s with responses := s.responses ++ [f (s.chip i).det] } :=
  onChip_of_selects c s _ _ i h

end Sys2Proof.Machine

namespace Sys2Proof.Proofs

open Sys2Proof.Machine Sys2Proof.Laws

/-- Settles O25: each CONFIG is one update of the registry. -/
theorem configWritesItsRegister : Obligations.ConfigWritesItsRegister := by
  intro s n count f0 f1 f2 f3 slot base m ovr chan
  refine ⟨rfl, rfl, rfl, rfl, _, rfl, ?_⟩
  have hat : (s.registry.slots.set slot ⟨if slot = 0 then chip0Base else base, m, ovr, chan⟩)[slot]
      = ⟨if slot = 0 then chip0Base else base, m, ovr, chan⟩ := by simp
  rw [hat]
  refine ⟨rfl, rfl, rfl, rfl, fun j hj => ?_⟩
  have hne : slot.val ≠ j.val := fun e => hj (Fin.ext e.symm)
  simp [hne]

/-- Settles O26: the two tests of RESET are the two clauses, and the chip it leaves is `resetChip`, field by field. -/
theorem resetGivesEveryFieldAValue : Obligations.ResetGivesEveryFieldAValue := by
  intro c s i hc
  refine ⟨fun h => exec_reset_of_badRates hc ((badRates_iff _).mpr h), fun hs hr => ?_⟩
  intro slot m t
  have hrates : badRates s.registry = false := Bool.eq_false_iff.mpr fun h => by
    rcases (badRates_iff _).mp h with h | h <;> contradiction
  exact ⟨exec_reset_of_rates hc hrates, onlyChip_setChip i s _⟩

/-- Settles O27: the tests of RESETALL in their order, `badBases` spelled out slot by slot. -/
theorem resetAllRefusals : Obligations.ResetAllRefusals := by
  intro s r bound n bad
  have hbad : badBases r (clampCount r).val = true ↔ ∃ i : Fin 10, 0 < i.val ∧ i.val < n ∧ bad i := by
    rw [clampCount_eq, badBases_iff]
    refine exists_congr fun i => and_congr_right fun h0 => and_congr_right fun _ => ?_
    rw [slotRefused_iff r h0, badBase_iff]
    simp only [bad, or_assoc]
  have hexec : exec .resetAll s = if badRates r then .refused .badRate
      else if badBases r (clampCount r).val then .refused .badBase
      else .next (resetAllState s (clampCount r)) := rfl
  rw [hexec, ← badRates_iff, ← hbad]
  refine ⟨fun h => if_pos h, fun h h' => ?_, fun h h' => ⟨resetAllState s (clampCount r), ?_⟩⟩
  · rw [if_neg h, if_pos h']
  · rw [if_neg h, if_neg h']

/-- Settles O28: the chips by `chip_resetAllState`, the table by the windows of a legal registry, which exclude each
other. -/
theorem resetAllRebuildsTheBus : Obligations.ResetAllRebuildsTheBus := by
  intro s hs r bound n window
  have hn : (clampCount r).val = n := clampCount_eq r
  have hlegal : badRates r = false ∧ badBases r n = false := by
    rw [← hn]
    simpa [State.resetAllLegal] using hs
  obtain ⟨hrates, hbases⟩ := hlegal
  obtain ⟨hreg, hpcm, htraces, hport, hresp, hreads⟩ := resetAllState_outside s (clampCount r)
  have hbus : ∀ a, busChip (resetAllState s (clampCount r)) a =
      if a.toNat < 0xD000 ∨ 0xDFFF < a.toNat then none else lutChip (rebuildLut r n) a := fun a => by
    unfold busChip
    rw [hreg, hn]
  refine ⟨_, exec_resetAll_eq_next.mpr ⟨hs, rfl⟩, ?registry, ?count, fun i hi => ?inUse, fun i hi => ?unused, hport, hresp,
    hreads, sameMemory_of_eq hpcm htraces, fun a i hi => ?window, fun a ha => ?mirror⟩
  case registry => rw [hreg]
  case count =>
    rw [hreg]
    exact hn
  case inUse =>
    rw [exec_reset_of_rates (chipIndex_ofNat i) hrates, chip_resetAllState, if_pos (hn ▸ hi)]
    rfl
  case unused =>
    rw [chip_resetAllState, if_neg (by rw [hn]; omega)]
  case window =>
    have hwindow : inWindow r n i a := hi
    obtain ⟨h0, hin, hle, hlt⟩ := hwindow
    have hbase := base_of_not_badBases hbases h0 hin
    rw [hbus, if_neg (by omega), lutChip_rebuildLut_of_window hbases hi]
  case mirror =>
    rw [hbus, lutChip_rebuildLut_of_no_window (not_exists.mp ha)]
    split_ifs <;> first | rfl | omega

/-- Settles O29: each turn of the loop replaces one chip, and no turn writes anything outside the chips. -/
theorem setModelsReplacesTheModel : Obligations.SetModelsReplacesTheModel := by
  intro bits s
  obtain ⟨hreg, hpcm, htraces, hport, hresp, hreads⟩ := foldl_setModelAt_outside bits (activeChips s) s
  refine ⟨_, rfl, ?inUse, fun i hi => ?unused, ⟨hreg, hport, hresp⟩, hreads,
    sameMemory_of_eq hpcm htraces⟩
  case inUse =>
    intro i hi m
    rw [chip_foldl_setModelAt, if_pos hi]
    rfl
  case unused => rw [chip_foldl_setModelAt, if_neg (by omega)]

/-- Settles O30: the two windows are the two branches of `resetCount`. -/
theorem resetCountClosesTheWindow : Obligations.ResetCountClosesTheWindow := by
  intro c s i h k restored empty k'
  refine ⟨(digiCtrl_of_selects h resetCount).trans ?_, onlyChip_setChip i s k'⟩
  have hk : resetCount k = k' := by
    unfold resetCount
    by_cases hempty : k.det.count = 0 ∧ k.det.type ≠ .none
    · have he : k' = _ := if_pos hempty
      rw [he, if_pos hempty]
      rfl
    · have he : k' = _ := if_neg hempty
      rw [he, if_neg hempty]
  rw [hk]

/-- Settles O31: each of the three is one update of the chip; a disabled detector fails the first test of detection, of
routing and of the player. -/
theorem detectorLifecycle : Obligations.DetectorLifecycle := by
  intro c s i h k restored disabled enabled reset
  refine ⟨digiCtrl_of_selects h disableDetector, fun a val => detectSample_of_disabled a val rfl, fun sm scale => rfl,
    fun reads => ?player, digiCtrl_of_selects h enableDetector, digiCtrl_of_selects h detectorReset,
    onlyChip_setChip i s _, onlyChip_setChip i s _, onlyChip_setChip i s _⟩
  case player =>
    have hstopped : psidRuns disabled = false := by simp [psidRuns, disabled]
    exact ⟨by simp [psidLevel, psidSounds, hstopped], psidAdvance_of_not_runs hstopped⟩

/-- Settles O32: each query is one function of the detector. -/
theorem digiQueriesAnswer : Obligations.DigiQueriesAnswer := by
  intro c s i h d code
  have hcode : digiTypeCode d.type = code := by
    simp only [code]
    cases d.type <;> rfl
  have htype := digiQuery_of_selects h fun d => digiTypeCode d.type
  rw [hcode] at htype
  have hrate := digiQuery_of_selects h digiRate
  refine ⟨htype, htype, digiQuery_of_selects h fun _ => 0, fun hnone => hrate.trans ?_, fun hsome => hrate.trans ?_⟩
  · have hzero : digiRate d = 0 := if_neg (by
      rintro ⟨htype, hcount⟩
      rcases hnone with h | h
      · exact htype h
      · omega)
    rw [hzero]
  · simp only [not_or] at hsome
    have hfull : digiRate d = d.count := if_pos ⟨hsome.1, by omega⟩
    rw [hfull]

end Sys2Proof.Proofs

/-! The detector's samples, latches and player (43_digi_detector.md R253 to R266), the routing of its signal (R260), and
the external filter (44_render.md R298). -/

namespace Sys2Proof.Machine

open Sys2Proof.Laws

/-! ### What a WRITE leaves of the detector (40_register_access.md R131) -/

theorem writeChip_det (a : Addr) (val : Byte) {poke : Chip → Chip} (hp : RegisterRule poke) (c : Chip) :
    (writeChip a val poke c).det = (detectSample a val { c with life := .active }).1.det := by
  rw [writeChip_outside_registers a val hp c]

theorem writeChip_mute (a : Addr) (val : Byte) {poke : Chip → Chip} (hp : RegisterRule poke) (c : Chip) :
    (writeChip a val poke c).mute = (detectSample a val { c with life := .active }).1.mute := by
  rw [writeChip_outside_registers a val hp c]

/-! ### Volume samples (R253 to R256) -/

/-- The five conditions, spelled out (R255). -/
theorem isMahoney_iff (c : Chip) :
    isMahoney c = true ↔
      (c.filter.filt.v0 = true ∧ c.filter.filt.v1 = true ∧ c.filter.filt.v2 = false) ∧ c.filter.cutoff = 0x7FF
        ∧ (getSR c .v0 = getSR c .v1 ∧ getSR c .v1 = getSR c .v2) ∧ 0xFB ≤ (getSR c .v0).toNat
        ∧ (getWave c .v0 = 0x49 ∧ getWave c .v1 = 0x49 ∧ getWave c .v2 = 0x49) := by
  simp only [isMahoney, decide_eq_true_eq]
  rfl

theorem voiceHoldsSource_iff (src : DigiSrc) : voiceHoldsSource src = true ↔ ∃ v, src = .voice v := by
  cases src <;> simp [voiceHoldsSource]

theorem d418Detect_of_mahoney {val : Byte} {c : Chip} (h : isMahoney c = true) :
    (d418Detect val c).1 = recordSample (Config.mahoneyTable val) (muteAllVoices (setSource .m418 .volume c)) := by
  rw [d418Detect, if_pos h]

theorem d418Detect_of_voice {val : Byte} {c : Chip} (h : ¬ isMahoney c = true)
    (hsrc : voiceHoldsSource c.det.src = true) : (d418Detect val c).1 = c := by
  rw [d418Detect, if_neg h, if_pos hsrc]

theorem d418Detect_of_plain {val : Byte} {c : Chip} (h : ¬ isMahoney c = true)
    (hsrc : ¬ voiceHoldsSource c.det.src = true) :
    (d418Detect val c).1 = recordSample (volumeSample val) (setSource .d418 .volume c) := by
  rw [d418Detect, if_neg h, if_neg hsrc]

/-- The widened nibble: the low four bits in both halves (R253). -/
theorem toNat_volumeSample (val : Byte) : (volumeSample val).toNat = val.toNat % 16 * 0x11 := by
  have hnib : (val.extractLsb' 0 4).toNat = val.toNat % 16 := by simp [BitVec.extractLsb'_toNat]
  rw [volumeSample, BitVec.toNat_append, hnib, ← Nat.shiftLeft_add_eq_or_of_lt (by omega), Nat.shiftLeft_eq]
  omega

/-! ### The PSID player (R261 to R266) -/

theorem toNat_psidStep (crate srate : BitVec 32) (period : BitVec 16) :
    (psidStep crate srate period).toNat =
      min (2 ^ 32 - 1) (crate.toNat * 65536 / (period.toNat * srate.toNat)) := by
  rw [psidStep, BitVec.toNat_ofNat]
  exact Nat.mod_eq_of_lt (by omega)

theorem psidLatch_det_psid {a : Addr} {val : Byte} {c : Chip} {r : PsidReg} (hreal : c.realFile = false)
    (hr : psidRegAt a = some r) :
    (psidLatch a val c).det.psid = psidWrite r val c.crate c.srate c.det.psid := by
  simp [psidLatch, psidLatched, hreal, hr]

/-- The control bytes that stop the player, start it, and do nothing (R264). -/
theorem psidControl_of_stop {val : Byte} {crate srate : BitVec 32} {p : Psid}
    (h : val = 0xFD ∨ (val = 0xFF ∨ val = 0xFE) ∧ p.prPeriod = 0) :
    psidControl val crate srate p = { p with pdActive := false } := by
  unfold psidControl
  rcases h with rfl | ⟨hstart, hperiod⟩
  · rfl
  · have hne : val ≠ 0xFD := by rcases hstart with rfl | rfl <;> decide
    rw [if_neg hne, if_pos hstart, if_pos hperiod]

theorem psidControl_of_start {val : Byte} {crate srate : BitVec 32} {p : Psid} (hstart : val = 0xFF ∨ val = 0xFE)
    (hperiod : p.prPeriod ≠ 0) :
    psidControl val crate srate p =
      { p with pdCur := p.prStart, pdPos := 0, pdCnt := p.prRepCnt, pdStep := psidStep crate srate p.prPeriod,
               pdActive := true } := by
  have hne : val ≠ 0xFD := by rcases hstart with rfl | rfl <;> decide
  rw [psidControl, if_neg hne, if_pos hstart, if_neg hperiod]

theorem psidControl_of_other {val : Byte} {crate srate : BitVec 32} {p : Psid}
    (h : val ≠ 0xFD ∧ val ≠ 0xFF ∧ val ≠ 0xFE) : psidControl val crate srate p = p := by
  obtain ⟨hFD, hFF, hFE⟩ := h
  rw [psidControl, if_neg hFD, if_neg (not_or.mpr ⟨hFF, hFE⟩)]

/-- The nibble of a byte that `PR_ORDER` and the nibble number select, as a number (R266). -/
theorem toNat_psidPick (order : Byte) (n : Nat) (b : Byte) :
    (psidPick order n b).toNat =
      if (order = 0 ∧ n % 2 = 0) ∨ (order ≠ 0 ∧ n % 2 = 1) then b.toNat % 16 else b.toNat / 16 := by
  have hlow : (b.extractLsb' 0 4).toNat = b.toNat % 16 := by simp [BitVec.extractLsb'_toNat]
  have hhigh : (b.extractLsb' 4 4).toNat = b.toNat / 16 := by
    have hlt := b.isLt
    rw [BitVec.extractLsb'_toNat, Nat.shiftRight_eq_div_pow]
    omega
  have hpick : decide (order = 0) = decide (n % 2 = 0) ↔ (order = 0 ∧ n % 2 = 0) ∨ (order ≠ 0 ∧ n % 2 = 1) := by
    rw [decide_eq_decide]
    rcases Nat.mod_two_eq_zero_or_one n with h | h <;> simp only [h] <;> tauto
  simp only [psidPick, hpick]
  split
  · exact hlow
  · exact hhigh

/-- The level of one nibble of a byte, -32768 to 32767 (R266). -/
def nibbleLevel (order : Byte) (n : Nat) (b : Byte) : Int := ((psidPick order n b).toNat : Int) * 0x1111 - 0x8000

theorem nibbleLevel_bounds (order : Byte) (n : Nat) (b : Byte) :
    -32768 ≤ nibbleLevel order n b ∧ nibbleLevel order n b ≤ 32767 := by
  have hlt := (psidPick order n b).isLt
  unfold nibbleLevel
  omega

theorem nibbleLevel_eq (order : Byte) (n : Nat) (b : Byte) :
    nibbleLevel order n b =
      (if (order = 0 ∧ n % 2 = 0) ∨ (order ≠ 0 ∧ n % 2 = 1) then (b.toNat % 16 : Int) else (b.toNat / 16 : Int))
        * 0x1111 - 0x8000 := by
  rw [nibbleLevel, toNat_psidPick]
  split <;> simp

/-- At the end of a segment with repeats left the player starts over at the repeat address, with one repeat fewer (R266). -/
def psidRepeated (p : Psid) : Psid :=
  { p with pdCnt := if p.pdCnt = 0xFF then 0xFF else p.pdCnt - 1, pdCur := p.prRepAddr, pdPos := 0 }

theorem psidRestart_of_repeats {p : Psid} (hcnt : p.pdCnt ≠ 0) :
    psidRestart p =
      if p.prEnd.toNat ≤ p.prRepAddr.toNat then { psidRepeated p with pdActive := false } else psidRepeated p := by
  have hcount : (if p.pdCnt = 0xFF then p.pdCnt else p.pdCnt - 1) = if p.pdCnt = 0xFF then 0xFF else p.pdCnt - 1 := by
    split
    · next h => exact h
    · rfl
  rw [psidRestart, if_neg hcnt, hcount]
  rfl

/-- A player that starts over reads the byte at the repeat address. -/
theorem psidAddr_psidRepeated (p : Psid) : psidNibble (psidRepeated p) = 0 ∧ psidAddr (psidRepeated p) = p.prRepAddr := by
  have hnib : psidNibble (psidRepeated p) = 0 := by simp [psidNibble, psidRepeated]
  refine ⟨hnib, ?_⟩
  rw [psidAddr, hnib]
  exact BitVec.add_zero p.prRepAddr

/-- A player that sounds reads one byte and moves on from its settled position. -/
theorem psidTick_of_sounds {c : Chip} (hruns : psidRuns c = true) {q : Psid} (hq : psidSettle c.det.psid = q)
    (hactive : q.pdActive = true) (reads : Nat) :
    psidLevel reads c = nibbleLevel q.prOrder (psidNibble q) (Config.ramRead reads (psidAddr q))
      ∧ psidReads reads c = reads + 1
      ∧ psidAdvance c = { c with det := { c.det with psid := { q with pdPos := q.pdPos + q.pdStep.setWidth 48 } } } := by
  subst hq
  have hsounds : psidSounds c = true := by simp [psidSounds, hruns, hactive]
  exact ⟨if_pos hsounds, if_pos hsounds, by simp [psidAdvance, hruns, hactive]⟩

/-- A player whose segment ends it is silent, reads nothing and stays where it settled. -/
theorem psidTick_of_ended {c : Chip} (hruns : psidRuns c = true) {q : Psid} (hq : psidSettle c.det.psid = q)
    (hactive : q.pdActive = false) (reads : Nat) :
    psidLevel reads c = 0 ∧ psidReads reads c = reads
      ∧ psidAdvance c = { c with det := { c.det with psid := q } } := by
  subst hq
  have hsilent : psidSounds c = false := by simp [psidSounds, hactive]
  exact ⟨by simp [psidLevel, hsilent], by simp [psidReads, hsilent], by simp [psidAdvance, hruns, hactive]⟩

theorem psidTick_of_not_runs {c : Chip} (h : psidRuns c = false) (reads : Nat) :
    psidLevel reads c = 0 ∧ psidAdvance c = c ∧ psidReads reads c = reads := by
  have hsilent : psidSounds c = false := by simp [psidSounds, h]
  exact ⟨by simp [psidLevel, hsilent], psidAdvance_of_not_runs h, by simp [psidReads, hsilent]⟩

theorem psidLevel_bounds (reads : Nat) (c : Chip) : -32768 ≤ psidLevel reads c ∧ psidLevel reads c ≤ 32767 := by
  unfold psidLevel
  split
  · exact nibbleLevel_bounds _ _ _
  · omega

/-! ### The digi signal (R260) -/

theorem routeDigi_of_off {c : Chip} (h : c.det.en = false ∨ c.det.src = .unused) (sm : Sums) (scale : Byte) :
    routeDigi c sm scale = sm := by
  have hoff : digiOff c.det = true := by rcases h with h | h <;> simp [digiOff, h]
  exact if_pos hoff

theorem digiScaled_of_on {d : Detector} (hen : d.en = true) (hsrc : d.src ≠ .unused) (scale : Byte) :
    digiScaled d scale =
      Int.tdiv (((d.sample.toNat : Int) * 0x101 - 0x8000) * Config.digiGain * scale.toNat) 255 := by
  have hon : digiOff d = false := by simp [digiOff, hen, hsrc]
  simp only [digiScaled, hon, Bool.false_eq_true, if_false, scaleBy, digiLevel, tdiv]

theorem routeDigi_of_volume {c : Chip} (hen : c.det.en = true) (hsrc : c.det.src = .volume) (sm : Sums)
    (scale : Byte) : routeDigi c sm scale = ⟨sm.f, sm.u + digiScaled c.det scale⟩ := by
  simp [routeDigi, digiOff, digiVoice, hen, hsrc]

theorem routeDigi_of_voice {c : Chip} {v : Voice} (hen : c.det.en = true) (hsrc : c.det.src = .voice v) (sm : Sums)
    (scale : Byte) : routeDigi c sm scale = routeSignal c.filter (digiScaled c.det scale) sm v := by
  simp [routeDigi, digiOff, digiVoice, hen, hsrc]

/-- A voice technique mutes its voice (10_state.md R48). -/
theorem mute_of_voice_source {c : Chip} (hc : c.mutesFollowSource) {v : Voice} (hsrc : c.det.src = .voice v) :
    c.mute.get v = true := by
  obtain ⟨hfits, hmute, _⟩ := hc
  rw [hsrc] at hfits hmute
  rw [hmute]
  cases htype : c.det.type <;> simp_all [sourceFits, silencedBy]

/-! ### The external filter (44_render.md R298) -/

/-- A share `k / 65536` of a distance, truncated toward zero, lies between nothing and the distance. -/
theorem tdiv_share_bounds (a : Int) {k : Nat} (hk : k ≤ 65536) :
    min 0 a ≤ Int.tdiv (a * k) 65536 ∧ Int.tdiv (a * k) 65536 ≤ max 0 a := by
  have hpos : ∀ b : Int, 0 ≤ b → 0 ≤ Int.tdiv (b * k) 65536 ∧ Int.tdiv (b * k) 65536 ≤ b := by
    intro b hb
    have hprod : 0 ≤ b * k := mul_nonneg hb (by omega)
    have hle : b * k ≤ b * 65536 := mul_le_mul_of_nonneg_left (by omega) hb
    rw [Int.tdiv_eq_ediv_of_nonneg hprod]
    omega
  rcases le_total 0 a with ha | ha
  · have := hpos a ha
    omega
  · have hneg := hpos (-a) (by omega)
    rw [neg_mul, Int.neg_tdiv] at hneg
    omega

end Sys2Proof.Machine

namespace Sys2Proof.Proofs

open Sys2Proof.Machine Sys2Proof.Laws

/-- Settles O37: the three clauses are the three branches of `d418Detect`. -/
theorem volumeWriteIsASample : Obligations.VolumeWriteIsASample := by
  intro win val s i h hen c mahoney counted
  have hmahoney : isMahoney { c with life := .active } = true ↔ mahoney := isMahoney_iff _
  have hvoice : voiceHoldsSource c.det.src = true ↔ ∃ v, c.det.src = .voice v := voiceHoldsSource_iff _
  have hdet : (detectSample (busAddr win 0x18) val { c with life := .active }).1
      = (d418Detect val { c with life := .active }).1 := by
    rw [detectSample_modeVol, if_pos hen]
  refine ⟨_, writeBus_of_reaches val (pokeModeVol val) h, ?_⟩
  rw [chip_setChip_same, writeChip_det _ _ (registerRule_pokeModeVol val),
    writeChip_mute _ _ (registerRule_pokeModeVol val), hdet]
  have hcount : ∀ type, (saturatingSucc (setSource type .volume { c with life := .active }).det.count).toNat
      = counted type := fun type => toNat_succ_setSource_count type .volume { c with life := .active }
  refine ⟨fun hm => ?mahoney, fun hm hv => ?voice, fun hm hv => ?plain⟩
  case mahoney =>
    rw [d418Detect_of_mahoney (hmahoney.mpr hm)]
    refine ⟨?_, ?_, rfl, rfl, hcount .m418⟩ <;> simp
  case voice =>
    rw [d418Detect_of_voice (fun e => hm (hmahoney.mp e)) (hvoice.mpr hv)]
    exact ⟨rfl, rfl⟩
  case plain =>
    rw [d418Detect_of_plain (fun e => hm (hmahoney.mp e)) (fun e => hv (hvoice.mp e))]
    refine ⟨?_, ?_, toNat_volumeSample val, hcount .d418⟩ <;> simp

/-- Settles O38: each latch is one branch of `psidWrite`, and the control byte one of `psidControl`. -/
theorem psidLatchesAndControl : Obligations.PsidLatchesAndControl := by
  intro addr val c p p'
  refine ⟨fun r => psidRegAt_some, psidRegAt_eq_none_iff addr, fun h => psidRegAt_of_mapped addr ?_, ?_,
    psidLatch_frame addr val c, fun hreal => ?_⟩
  · exact decide_eq_false (by omega)
  · rintro (h | h)
    · exact psidLatch_of_realFile addr val c h
    · exact psidLatch_of_none addr val c h
  · have hlatch : ∀ {r}, psidRegAt addr = some r → p' = psidWrite r val c.crate c.srate p :=
      fun hr => psidLatch_det_psid hreal hr
    refine ⟨hlatch, hlatch, hlatch, hlatch, hlatch, hlatch, hlatch, hlatch, hlatch, hlatch, fun hr => ?control⟩
    have hcontrol : p' = psidControl val c.crate c.srate p := hlatch hr
    refine ⟨fun h => hcontrol.trans (psidControl_of_stop h), fun ⟨hstart, hperiod⟩ => ?start,
      fun h => hcontrol.trans (psidControl_of_other h)⟩
    have hstarted := hcontrol.trans (psidControl_of_start hstart hperiod)
    rw [hstarted]
    exact ⟨rfl, fun _ => toNat_psidStep _ _ _⟩

/-- Settles O39: where the segment has not ended the player stays settled; where it has, `psidRestart` decides. -/
theorem psidPlayerTick : Obligations.PsidPlayerTick := by
  intro reads c p nib a sound cnt after ended
  have hsound : ∀ n b, nibbleLevel p.prOrder n b = sound n b := fun n b => nibbleLevel_eq p.prOrder n b
  have hsettled : ended → psidSettle p = psidRestart p := fun h => if_pos h
  refine ⟨psidRuns_iff c, fun h => psidTick_of_not_runs h reads, fun hruns hend => ?on, fun hruns hend hcnt => ?last,
    fun hruns hend hcnt hrep => ?again, fun hruns hend hcnt hrep => ?empty, (psidLevel_bounds reads c).1,
    (psidLevel_bounds reads c).2⟩
  case on =>
    have hactive := ((psidRuns_iff c).mp hruns).2.2
    obtain ⟨hlevel, hreads, hadvance⟩ := psidTick_of_sounds hruns (if_neg hend) hactive reads
    exact ⟨hlevel.trans (hsound _ _), hreads, hadvance⟩
  case last =>
    have hq : psidSettle p = { p with pdActive := false } := (hsettled hend).trans (if_pos hcnt)
    exact psidTick_of_ended hruns hq rfl reads
  case again =>
    have hq : psidSettle p = psidRepeated p :=
      (hsettled hend).trans ((psidRestart_of_repeats hcnt).trans (if_neg (by omega)))
    have hactive : (psidRepeated p).pdActive = true := ((psidRuns_iff c).mp hruns).2.2
    obtain ⟨hlevel, hreads, hadvance⟩ := psidTick_of_sounds hruns hq hactive reads
    obtain ⟨hnib, haddr⟩ := psidAddr_psidRepeated p
    rw [hnib, haddr] at hlevel
    refine ⟨hlevel.trans (hsound _ _), hreads, hadvance.trans ?_⟩
    have hpos : (psidRepeated p).pdPos + (psidRepeated p).pdStep.setWidth 48 = p.pdStep.setWidth 48 :=
      BitVec.zero_add _
    rw [hpos]
    rfl
  case empty =>
    have hq : psidSettle p = { psidRepeated p with pdActive := false } :=
      (hsettled hend).trans ((psidRestart_of_repeats hcnt).trans (if_pos hrep))
    exact psidTick_of_ended hruns hq rfl reads

/-- Settles O40: the digi level is routed as the voice it stands in for, whose mute the invariant gives. -/
theorem digiStandsInForItsVoice : Obligations.DigiStandsInForItsVoice := by
  intro c sm scale d
  refine ⟨fun h => routeDigi_of_off h sm scale, fun hen hsrc => ?volume, fun v hen hsrc => ⟨?voice, fun h => ?mute⟩⟩
  case volume =>
    rw [routeDigi_of_volume hen hsrc, digiScaled_of_on hen (by simp [hsrc])]
  case voice =>
    rw [routeDigi_of_voice hen hsrc, digiScaled_of_on hen (by simp [hsrc]), routeSignal_eq]
    split_ifs <;> simp_all [d]
  case mute => exact mute_of_voice_source h hsrc

/-- Settles O44: the step toward the input is a share of the distance to it. -/
theorem externalFilterNeverOvershoots : Obligations.ExternalFilterNeverOvershoots := by
  intro c m
  have hshare := tdiv_share_bounds (m - c.filter.extY) (Nat.lt_succ_iff.mp (Config.extK c.srate).isLt)
  have hnext : extNext c m = c.filter.extY + Int.tdiv ((m - c.filter.extY) * (Config.extK c.srate).val) 65536 := rfl
  rw [hnext]
  refine ⟨by omega, by omega, fun hk => ?pass, fun hk => ?freeze, rfl, rfl, rfl, rfl⟩
  case pass =>
    rw [hk, Nat.cast_ofNat, Int.mul_tdiv_cancel _ (by decide)]
    omega
  case freeze => simp [hk]

end Sys2Proof.Proofs

/-! The voice algorithms write by write (43_digi_detector.md R230, R231, R240, R241, R247 to R249): the record each
automaton moves to, and what a write captures. -/

namespace Sys2Proof.Machine

open Sys2Proof.Laws

/-! ### The moves of the automata -/

/-- The FM record after a waveform byte that is not a payload's last step (R230). -/
def fmNext (cyc : BitVec 32) (val : Byte) (m : FmRec) : FmRec :=
  let inTime := within cyc m.ts Config.fmTimeout = true
  if val = triGate then { m with phase := .prep, ts := cyc }
  else if val = testGate ∧ m.phase = .prep ∧ inTime then { m with phase := .set, ts := cyc }
  else if val = gateOnly ∧ m.phase = .set ∧ inTime then { m with phase := .variant1, ts := cyc }
  else { m with phase := .idle }

/-- The PWM-test record after a waveform byte (R240). -/
def pwNext (cyc : BitVec 32) (val : Byte) (m : PwRec) : PwRec :=
  if val = pulseTestGate then
    { m with phase := if m.phase = .prepA ∧ within cyc m.ts Config.pwmTimeout = true then .confirmA else .prepB, ts := cyc }
  else { m with phase := .idle }

/-- The PWM-test record after a low byte of the pulse width (R241). -/
def pwLoNext (cyc : BitVec 32) (val : Byte) (m : PwRec) : PwRec :=
  ⟨if m.phase = .prepB ∧ within cyc m.ts Config.pwmTimeout = true then .confirmB else .prepA, cyc, val⟩

/-- The FM record after a high frequency byte that is not a payload's last step (R231). -/
def fmHiNext (cyc : BitVec 32) (val : Byte) (m : FmRec) : FmRec :=
  match m.phase with
  | .set => if within cyc m.ts Config.fmTimeout = true then ⟨.variant2, cyc, val⟩ else { m with phase := .idle }
  | .variant1 => { m with phase := .idle }
  | .idle | .prep | .variant2 => m

/-- FM consumes the waveform byte: the last step of its second ordering, in time (R230). -/
def fmTakes (c : Chip) (v : Voice) (val : Byte) : Prop :=
  val = gateOnly ∧ (c.det.fm.get v).phase = .variant2 ∧ within c.cyc (c.det.fm.get v).ts Config.fmTimeout = true

/-- PWM-test consumes the waveform byte: the last step of either ordering, in time (R240). -/
def pwTakes (c : Chip) (v : Voice) (val : Byte) : Prop :=
  val = pulseGate ∧ ((c.det.pw.get v).phase = .confirmA ∨ (c.det.pw.get v).phase = .confirmB)
    ∧ within c.cyc (c.det.pw.get v).ts Config.pwmTimeout = true

theorem fmOnWave_of_takes {c : Chip} {v : Voice} {val : Byte} (h : fmTakes c v val) :
    fmOnWave v val c =
      (capture .fm v (c.det.fm.get v).pend (setFm v { c.det.fm.get v with phase := .idle } c), true) := by
  obtain ⟨rfl, hphase, htime⟩ := h
  simp [fmOnWave, hphase, htime, gateOnly, triGate, testGate]

theorem fmOnWave_of_not_takes {c : Chip} {v : Voice} {val : Byte} (h : ¬ fmTakes c v val) :
    fmOnWave v val c = (setFm v (fmNext c.cyc val (c.det.fm.get v)) c, false) := by
  unfold fmTakes at h
  unfold fmOnWave fmNext
  dsimp only
  split_ifs <;> simp_all [gateOnly, testGate, triGate]

theorem pwmOnWave_of_takes {c : Chip} {v : Voice} {val : Byte} (h : pwTakes c v val) :
    pwmOnWave v val c =
      (capture .pwm v (c.det.pw.get v).pend (setPw v { c.det.pw.get v with phase := .idle } c), true) := by
  obtain ⟨rfl, hphase, htime⟩ := h
  simp [pwmOnWave, hphase, htime, pulseGate, pulseTestGate]

theorem pwmOnWave_of_not_takes {c : Chip} {v : Voice} {val : Byte} (h : ¬ pwTakes c v val) :
    pwmOnWave v val c = (setPw v (pwNext c.cyc val (c.det.pw.get v)) c, false) := by
  unfold pwTakes at h
  unfold pwmOnWave pwNext
  dsimp only
  split_ifs <;> simp_all [pulseGate, pulseTestGate]

theorem pwmOnPwLo_eq (v : Voice) (val : Byte) (c : Chip) :
    pwmOnPwLo v val c = (setPw v (pwLoNext c.cyc val (c.det.pw.get v)) c, false) := by
  unfold pwmOnPwLo pwLoNext
  dsimp only
  split_ifs <;> rfl

/-- FM consumes a high frequency byte at the last step of its first ordering, in time (R231). -/
theorem fmOnFreqHi_of_variant1 {c : Chip} {v : Voice} (val : Byte) (hphase : (c.det.fm.get v).phase = .variant1)
    (htime : within c.cyc (c.det.fm.get v).ts Config.fmTimeout = true) :
    fmOnFreqHi v val c = (capture .fm v val (setFm v { c.det.fm.get v with phase := .idle } c), true) := by
  simp [fmOnFreqHi, hphase, htime]

theorem fmOnFreqHi_of_not_variant1 {c : Chip} {v : Voice} (val : Byte)
    (h : ¬ ((c.det.fm.get v).phase = .variant1 ∧ within c.cyc (c.det.fm.get v).ts Config.fmTimeout = true)) :
    fmOnFreqHi v val c = (setFm v (fmHiNext c.cyc val (c.det.fm.get v)) c, false) := by
  have hsame : setFm v (c.det.fm.get v) c = c := by simp [setFm]
  unfold fmOnFreqHi fmHiNext
  dsimp only
  cases hphase : (c.det.fm.get v).phase with
  | idle | prep | variant2 => simp [hsame]
  | variant1 =>
    have hlate : within c.cyc (c.det.fm.get v).ts Config.fmTimeout = false :=
      Bool.eq_false_iff.mpr fun e => h ⟨hphase, e⟩
    simp [hlate]
  | _ => dsimp only; split <;> rfl

/-! ### Nothing captured -/

/-- From `c` to `d` the detector has taken no sample and ended no technique. -/
structure NothingCaptured (c d : Chip) : Prop where
  type : d.det.type = c.det.type
  src : d.det.src = c.det.src
  sample : d.det.sample = c.det.sample
  count : d.det.count = c.det.count
  mute : d.mute = c.mute
  muted : d.det.muted = c.det.muted

theorem NothingCaptured.trans {a b c : Chip} (h : NothingCaptured a b) (k : NothingCaptured b c) :
    NothingCaptured a c :=
  ⟨k.type.trans h.type, k.src.trans h.src, k.sample.trans h.sample, k.count.trans h.count, k.mute.trans h.mute,
    k.muted.trans h.muted⟩

/-- A chip whose detector and mutes are those of another has captured the same. -/
theorem nothingCaptured_of_eq {c d e : Chip} (hdet : e.det = d.det) (hmute : e.mute = d.mute)
    (h : NothingCaptured c d) : NothingCaptured c e :=
  ⟨hdet ▸ h.type, hdet ▸ h.src, hdet ▸ h.sample, hdet ▸ h.count, hmute ▸ h.mute, hdet ▸ h.muted⟩

/-! ### A write to the waveform register -/

/-- The chip after WRITE.WAVE. -/
def waveWritten (win : BitVec 11) (v : Voice) (val : Byte) (c : Chip) : Chip :=
  writeChip (busAddr win (voiceReg v 4)) val (pokeWave v val) c

/-- The detection of a voice register's write by an enabled detector, seen in the chip that the write leaves. -/
theorem writeChip_detected (win : BitVec 11) {v : Voice} {r : Nat} (hr : r < 7) {val : Byte} {poke : Chip → Chip}
    (hp : RegisterRule poke) {c d : Chip} (hen : c.det.en = true)
    (hd : (detectVoice v r val { c with life := .active }).1 = d) :
    (writeChip (busAddr win (voiceReg v r)) val poke c).det = d.det
      ∧ (writeChip (busAddr win (voiceReg v r)) val poke c).mute = d.mute := by
  have hdetect : (detectSample (busAddr win (voiceReg v r)) val { c with life := .active }).1 = d := by
    rw [detectSample_voiceReg win v hr, if_pos hen, hd]
  exact ⟨by rw [writeChip_det _ _ hp, hdetect], by rw [writeChip_mute _ _ hp, hdetect]⟩

/-- A waveform byte that FM consumes is its sample. -/
theorem waveWritten_of_fmTakes (win : BitVec 11) {v : Voice} {val : Byte} {c : Chip} (hen : c.det.en = true)
    (h : fmTakes c v val) :
    let d := capture .fm v (c.det.fm.get v).pend (setFm v { c.det.fm.get v with phase := .idle } { c with life := .active })
    (waveWritten win v val c).det = d.det ∧ (waveWritten win v val c).mute = d.mute := by
  refine writeChip_detected win (by decide) (registerRule_pokeWave v val) hen ?_
  have hfm := fmOnWave_of_takes (c := { c with life := .active }) h
  rw [detectVoice_wave, hfm]
  rfl

/-- A waveform byte that PWM-test consumes is its sample. -/
theorem waveWritten_of_pwTakes (win : BitVec 11) {v : Voice} {val : Byte} {c : Chip} (hen : c.det.en = true)
    (h : pwTakes c v val) :
    let d := capture .pwm v (c.det.pw.get v).pend (setPw v { c.det.pw.get v with phase := .idle }
      (setFm v (fmNext c.cyc val (c.det.fm.get v)) { c with life := .active }))
    (waveWritten win v val c).det = d.det ∧ (waveWritten win v val c).mute = d.mute := by
  refine writeChip_detected win (by decide) (registerRule_pokeWave v val) hen ?_
  have hnot : ¬ fmTakes { c with life := .active } v val := by
    rintro ⟨hgate, _⟩
    have hboth : (gateOnly : Byte) = pulseGate := hgate.symm.trans h.1
    simp [gateOnly, pulseGate] at hboth
  have hfm := fmOnWave_of_not_takes hnot
  have hpw := pwmOnWave_of_takes (c := setFm v (fmNext c.cyc val (c.det.fm.get v)) { c with life := .active }) h
  rw [detectVoice_wave, hfm]
  dsimp only
  rw [hpw]
  rfl

/-- A waveform byte that neither consumes captures nothing, moves both automata, and is seen by Swallow (R248). -/
theorem waveWritten_of_not_taken (win : BitVec 11) {v : Voice} {val : Byte} {c : Chip} (hen : c.det.en = true)
    (hfm : ¬ fmTakes c v val) (hpw : ¬ pwTakes c v val) :
    NothingCaptured c (waveWritten win v val c)
      ∧ (waveWritten win v val c).det.fm = c.det.fm.set v (fmNext c.cyc val (c.det.fm.get v))
      ∧ (waveWritten win v val c).det.pw = c.det.pw.set v (pwNext c.cyc val (c.det.pw.get v))
      ∧ (waveWritten win v val c).det.sw =
          if swEnv c v = true ∧ Config.swallowTrans (getWave c v) val = true then c.det.sw.set v (matchSignature c v)
          else c.det.sw := by
  let moved := setPw v (pwNext c.cyc val (c.det.pw.get v))
    (setFm v (fmNext c.cyc val (c.det.fm.get v)) { c with life := .active })
  have hswallow : detectVoice v 4 val { c with life := .active } = swallowOnWave v val moved := by
    have h1 := fmOnWave_of_not_takes (c := { c with life := .active }) hfm
    have h2 := pwmOnWave_of_not_takes (c := setFm v (fmNext c.cyc val (c.det.fm.get v)) { c with life := .active }) hpw
    rw [detectVoice_wave, h1]
    dsimp only
    rw [h2]
    rfl
  have hsees : (swEnv moved v = true ∧ Config.swallowTrans (getWave moved v) val = true) ↔
      swEnv c v = true ∧ Config.swallowTrans (getWave c v) val = true := Iff.rfl
  by_cases harms : swEnv c v = true ∧ Config.swallowTrans (getWave c v) val = true
  · have hd : swallowOnWave v val moved = (setSw v (matchSignature c v) moved, false) := by
      rw [swallowOnWave, if_pos (hsees.mpr harms)]
      rfl
    obtain ⟨hdet, hmute⟩ := writeChip_detected win (by decide) (registerRule_pokeWave v val) hen ((congrArg Prod.fst hswallow).trans (congrArg Prod.fst hd))
    refine ⟨nothingCaptured_of_eq hdet hmute ⟨rfl, rfl, rfl, rfl, rfl, rfl⟩, ?_, ?_, ?_⟩
    all_goals rw [waveWritten, hdet]
    · rfl
    · rfl
    · rw [if_pos harms]
      rfl
  · have hd : swallowOnWave v val moved = (moved, false) := by
      rw [swallowOnWave, if_neg (fun e => harms (hsees.mp e))]
    obtain ⟨hdet, hmute⟩ := writeChip_detected win (by decide) (registerRule_pokeWave v val) hen ((congrArg Prod.fst hswallow).trans (congrArg Prod.fst hd))
    refine ⟨nothingCaptured_of_eq hdet hmute ⟨rfl, rfl, rfl, rfl, rfl, rfl⟩, ?_, ?_, ?_⟩
    all_goals rw [waveWritten, hdet]
    · rfl
    · rfl
    · rw [if_neg harms]
      rfl

/-! ### A write to the high frequency byte -/

/-- The chip after WRITE.FREQ_HI. -/
def freqHiWritten (win : BitVec 11) (v : Voice) (val : Byte) (c : Chip) : Chip :=
  writeChip (busAddr win (voiceReg v 1)) val (pokeFreqHi v val) c

theorem freqHiWritten_of_variant1 (win : BitVec 11) {v : Voice} (val : Byte) {c : Chip} (hen : c.det.en = true)
    (hphase : (c.det.fm.get v).phase = .variant1)
    (htime : within c.cyc (c.det.fm.get v).ts Config.fmTimeout = true) :
    let d := capture .fm v val (setFm v { c.det.fm.get v with phase := .idle } { c with life := .active })
    (freqHiWritten win v val c).det = d.det ∧ (freqHiWritten win v val c).mute = d.mute :=
  writeChip_detected win (by decide) (registerRule_pokeFreqHi v val) hen
    (congrArg Prod.fst <| (detectVoice_freqHi _ _ _).trans (fmOnFreqHi_of_variant1 (c := { c with life := .active }) val hphase htime))

theorem freqHiWritten_of_not_variant1 (win : BitVec 11) {v : Voice} (val : Byte) {c : Chip} (hen : c.det.en = true)
    (h : ¬ ((c.det.fm.get v).phase = .variant1 ∧ within c.cyc (c.det.fm.get v).ts Config.fmTimeout = true)) :
    NothingCaptured c (freqHiWritten win v val c)
      ∧ (freqHiWritten win v val c).det.fm = c.det.fm.set v (fmHiNext c.cyc val (c.det.fm.get v)) := by
  obtain ⟨hdet, hmute⟩ := writeChip_detected win (by decide) (registerRule_pokeFreqHi v val) hen
    (congrArg Prod.fst <| (detectVoice_freqHi _ _ _).trans (fmOnFreqHi_of_not_variant1 (c := { c with life := .active }) val h))
  refine ⟨nothingCaptured_of_eq hdet hmute ⟨rfl, rfl, rfl, rfl, rfl, rfl⟩, ?_⟩
  rw [freqHiWritten, hdet]
  rfl

/-! ### A write to a byte of the pulse width -/

/-- The chip after WRITE.PW_LO or WRITE.PW_HI. -/
def pulseWritten (win : BitVec 11) (v : Voice) (r : PulseReg) (val : Byte) (c : Chip) : Chip :=
  match r with
  | .lo => writeChip (busAddr win (voiceReg v 2)) val (pokePwLo v val) c
  | .hi => writeChip (busAddr win (voiceReg v 3)) val (pokePwHi v val) c

/-- The PWM-test record after a byte of the pulse width: the low byte moves it, the high byte does not (R241). -/
def pulseNext (cyc : BitVec 32) (r : PulseReg) (val : Byte) (m : PwRec) : PwRec :=
  match r with
  | .lo => pwLoNext cyc val m
  | .hi => m

/-- After PWM-test Swallow sees either byte of the pulse width. -/
theorem pulseWritten_det (win : BitVec 11) (v : Voice) (r : PulseReg) (val : Byte) {c : Chip} (hen : c.det.en = true) :
    let d := (swallowOnPulse v r val
      (setPw v (pulseNext c.cyc r val (c.det.pw.get v)) { c with life := .active })).1
    (pulseWritten win v r val c).det = d.det ∧ (pulseWritten win v r val c).mute = d.mute := by
  cases r with
  | lo =>
    refine writeChip_detected win (by decide) (registerRule_pokePwLo v val) hen ?_
    rw [detectVoice_pwLo, pwmOnPwLo_eq]
    rfl
  | hi =>
    have hsame : setPw v (c.det.pw.get v) { c with life := .active } = { c with life := .active } := by simp [setPw]
    refine writeChip_detected win (by decide) (registerRule_pokePwHi v val) hen ?_
    rw [detectVoice_pwHi]
    simp only [pulseNext, hsame]

theorem swEnv_iff (c : Chip) (v : Voice) : swEnv c v = true ↔ getAD c v = 0x00 ∧ getSR c v = 0xF0 := by
  simp [swEnv]

/-- The automata after a byte of the pulse width, whatever Swallow does with it. -/
theorem pulseWritten_automata (win : BitVec 11) (v : Voice) (r : PulseReg) (val : Byte) {c : Chip}
    (hen : c.det.en = true) :
    (pulseWritten win v r val c).det.fm = c.det.fm
      ∧ (pulseWritten win v r val c).det.pw = c.det.pw.set v (pulseNext c.cyc r val (c.det.pw.get v)) := by
  obtain ⟨hdet, _⟩ := pulseWritten_det win v r val hen
  obtain ⟨hfm, hpw⟩ := swallowOnPulse_automata v r val
    (setPw v (pulseNext c.cyc r val (c.det.pw.get v)) { c with life := .active })
  rw [hdet, hfm, hpw]
  exact ⟨rfl, rfl⟩

/-- An armed voice captures the payload that its scheme unpacks (R249). -/
theorem pulseWritten_of_payload (win : BitVec 11) {v : Voice} {r : PulseReg} {val x : Byte} {c : Chip}
    {k : SwallowScheme} (hen : c.det.en = true) (hsw : c.det.sw.get v = some k) (henv : swEnv c v = true)
    (hx : Config.swallowUnpack k r val = some x) :
    let d := capture .swallow v x (setPw v (pulseNext c.cyc r val (c.det.pw.get v)) { c with life := .active })
    (pulseWritten win v r val c).det = d.det ∧ (pulseWritten win v r val c).mute = d.mute := by
  have hd : (swallowOnPulse v r val (setPw v (pulseNext c.cyc r val (c.det.pw.get v)) { c with life := .active })).1
      = capture .swallow v x (setPw v (pulseNext c.cyc r val (c.det.pw.get v)) { c with life := .active }) := by
    have henv' : swEnv (setPw v (pulseNext c.cyc r val (c.det.pw.get v)) { c with life := .active }) v = true := henv
    simp [swallowOnPulse, hsw, henv', hx]
  obtain ⟨hdet, hmute⟩ := pulseWritten_det win v r val hen
  exact ⟨by rw [hdet, hd], by rw [hmute, hd]⟩

/-- A voice that is not armed, or not under the envelope condition, or whose register carries no payload, captures
nothing; without the envelope condition it is disarmed (R249). -/
theorem pulseWritten_of_no_payload (win : BitVec 11) {v : Voice} {r : PulseReg} {val : Byte} {c : Chip}
    (hen : c.det.en = true)
    (h : c.det.sw.get v = none ∨ swEnv c v = false ∨ ∃ k, c.det.sw.get v = some k ∧ Config.swallowUnpack k r val = none) :
    NothingCaptured c (pulseWritten win v r val c)
      ∧ (pulseWritten win v r val c).det.sw.get v = if swEnv c v = true then c.det.sw.get v else none := by
  obtain ⟨hdet, hmute⟩ := pulseWritten_det win v r val hen
  let moved := setPw v (pulseNext c.cyc r val (c.det.pw.get v)) { c with life := .active }
  have henv : swEnv moved v = swEnv c v := rfl
  have hsw : moved.det.sw.get v = c.det.sw.get v := rfl
  have hd : NothingCaptured c (swallowOnPulse v r val moved).1
      ∧ (swallowOnPulse v r val moved).1.det.sw.get v = if swEnv c v = true then c.det.sw.get v else none := by
    unfold swallowOnPulse
    rw [hsw, henv]
    cases hk : c.det.sw.get v with
    | none => exact ⟨⟨rfl, rfl, rfl, rfl, rfl, rfl⟩, by simp [hsw, hk]⟩
    | some k =>
      dsimp only
      by_cases he : swEnv c v = true
      · have hnone : Config.swallowUnpack k r val = none := by
          rcases h with h | h | ⟨k', hk', h⟩
          · simp [h] at hk
          · simp [h] at he
          · rw [hk] at hk'
            cases hk'
            exact h
        rw [if_pos he, if_pos he, hnone]
        exact ⟨⟨rfl, rfl, rfl, rfl, rfl, rfl⟩, by rw [hsw, hk]⟩
      · rw [if_neg he, if_neg he]
        exact ⟨⟨rfl, rfl, rfl, rfl, rfl, rfl⟩, by simp⟩
  exact ⟨nothingCaptured_of_eq hdet hmute hd.1, by rw [hdet]; exact hd.2⟩

end Sys2Proof.Machine

/-! Swallow (43_digi_detector.md R247 to R249), write by write. -/

namespace Sys2Proof.Machine

open Sys2Proof.Laws

/-- The smallest scheme whose signature is the voice's pulse width and frequency (R248). -/
theorem matchSignature_eq (c : Chip) (v : Voice) :
    matchSignature c v =
      if Config.swallowSig .k1 = (getPulse c v, getFreq c v) then some .k1
      else if Config.swallowSig .k2 = (getPulse c v, getFreq c v) then some .k2
      else if Config.swallowSig .k3 = (getPulse c v, getFreq c v) then some .k3
      else none := by
  unfold matchSignature
  by_cases h1 : Config.swallowSig .k1 = (getPulse c v, getFreq c v)
  · simp [h1]
  · by_cases h2 : Config.swallowSig .k2 = (getPulse c v, getFreq c v)
    · simp [h1, h2]
    · by_cases h3 : Config.swallowSig .k3 = (getPulse c v, getFreq c v)
      · simp [h1, h2, h3]
      · simp [h1, h2, h3]

/-- A waveform byte that FM or PWM-test consumes leaves Swallow as it was (R248). -/
theorem waveWritten_sw_of_taken (win : BitVec 11) {v : Voice} {val : Byte} {c : Chip} (hen : c.det.en = true)
    (h : fmTakes c v val ∨ pwTakes c v val) : (waveWritten win v val c).det.sw = c.det.sw := by
  rcases h with h | h
  · rw [(waveWritten_of_fmTakes win hen h).1, capture_det_sw, setFm_det_sw]
  · rw [(waveWritten_of_pwTakes win hen h).1, capture_det_sw, setPw_det_sw, setFm_det_sw]

/-- WRITE.WAVE replaces the chip it reaches by the written one. -/
theorem exec_writeWave_of_reaches {win : BitVec 11} {v : Voice} {s : State} {i : Fin 10} (val : Byte)
    (h : s.reaches (busAddr win (voiceReg v 4)) i) :
    exec (.writeWave win v val) s = .next (s.setChip i (waveWritten win v val (s.chip i))) :=
  writeBus_of_reaches val (pokeWave v val) h

theorem exec_writePwLo_of_reaches {win : BitVec 11} {v : Voice} {s : State} {i : Fin 10} (val : Byte)
    (h : s.reaches (busAddr win (voiceReg v 2)) i) :
    exec (.writePwLo win v val) s = .next (s.setChip i (pulseWritten win v .lo val (s.chip i))) :=
  writeBus_of_reaches val (pokePwLo v val) h

theorem exec_writePwHi_of_reaches {win : BitVec 11} {v : Voice} {s : State} {i : Fin 10} (val : Byte)
    (h : s.reaches (busAddr win (voiceReg v 3)) i) :
    exec (.writePwHi win v val) s = .next (s.setChip i (pulseWritten win v .hi val (s.chip i))) :=
  writeBus_of_reaches val (pokePwHi v val) h

theorem exec_writeFreqHi_of_reaches {win : BitVec 11} {v : Voice} {s : State} {i : Fin 10} (val : Byte)
    (h : s.reaches (busAddr win (voiceReg v 1)) i) :
    exec (.writeFreqHi win v val) s = .next (s.setChip i (freqHiWritten win v val (s.chip i))) :=
  writeBus_of_reaches val (pokeFreqHi v val) h

end Sys2Proof.Machine

namespace Sys2Proof.Proofs

open Sys2Proof.Machine Sys2Proof.Laws

/-- Settles O36: a waveform byte by whether FM or PWM-test takes it, a byte of the pulse width by whether the scheme
carries a payload in it. -/
theorem swallowArmsAndCaptures : Obligations.SwallowArmsAndCaptures := by
  intro win v val s i hen c fm pw consumed nothingCaptured envelope pulse pulseReg
  have henvelope : envelope ↔ swEnv c v = true := (swEnv_iff c v).symm
  have hconsumed : consumed ↔ fmTakes c v val ∨ pwTakes c v val := Iff.rfl
  have hnothing : ∀ d, NothingCaptured c d → nothingCaptured (s.setChip i d) := by
    intro d h
    simp only [nothingCaptured, chip_setChip_same]
    exact ⟨h.type, h.src, h.sample, h.count, h.mute, h.muted⟩
  refine ⟨fun h => ⟨_, exec_writeWave_of_reaches val h, fun htaken => ?taken, fun hnot => ?seen⟩,
    fun r h => ⟨s.setChip i (pulseWritten win v r val c), ?runs, fun k hk => ⟨fun henv x hx => ?payload, fun hno => ?none⟩,
      fun hnone => ?unarmed⟩⟩
  case taken => rw [chip_setChip_same, waveWritten_sw_of_taken win hen (hconsumed.mp htaken)]
  case seen =>
    rw [hconsumed, not_or] at hnot
    obtain ⟨hcap, _, _, hsw⟩ := waveWritten_of_not_taken win hen hnot.1 hnot.2
    refine ⟨hnothing _ hcap, ?_⟩
    simp only [chip_setChip_same, hsw, henvelope, ← matchSignature_eq]
    split
    · exact PerVoice.get_set_same _ _ _
    · rfl
  case runs =>
    cases r with
    | lo => exact exec_writePwLo_of_reaches val h
    | hi => exact exec_writePwHi_of_reaches val h
  case payload =>
    obtain ⟨hdet, hmute⟩ := pulseWritten_of_payload (c := c) win hen hk (henvelope.mp henv) hx
    simp only [chip_setChip_same, hdet, hmute]
    exact ⟨capture_det_type .., capture_det_src .., capture_det_sample .., capture_det_count .., capture_mute_get ..,
      capture_det_muted_get .., (congrArg (PerVoice.get · v) (capture_det_sw ..)).trans hk⟩
  case none =>
    rw [henvelope, Bool.not_eq_true] at hno
    obtain ⟨hcap, hsw⟩ := pulseWritten_of_no_payload (c := c) win hen (.inr (hno.imp_right fun hx => ⟨k, hk, hx⟩))
    exact ⟨hnothing _ hcap, by simp only [chip_setChip_same, hsw, hk, henvelope]⟩
  case unarmed =>
    obtain ⟨hcap, hsw⟩ := pulseWritten_of_no_payload (r := r) (val := val) win hen (.inl hnone)
    refine ⟨hnothing _ hcap, ?_⟩
    rw [chip_setChip_same, hsw, hnone, ite_self]

end Sys2Proof.Proofs

/-! The detection sequences (43_digi_detector.md R230 to R232, R240, R241): a list of commands at one chip, as the chip
each leaves, with the cycles between. -/

namespace Sys2Proof.Machine

open Sys2Proof.Laws

/-! ### Lists of commands at one chip -/

/-- From any chip in place of chip `i`, the commands `l` complete and leave another in its place. -/
def Leads (i : Fin 10) (s : State) (l : List Instr) (c d : Chip) : Prop :=
  execAll l (s.setChip i c) = .next (s.setChip i d)

@[simp] theorem setChip_setChip (s : State) (i : Fin 10) (c d : Chip) : (s.setChip i c).setChip i d = s.setChip i d := by
  simp [State.setChip]

theorem execAll_append (l m : List Instr) (s : State) : execAll (l ++ m) s = andThen (execAll l s) (execAll m) := by
  induction l generalizing s with
  | nil => rfl
  | cons i rest ih =>
    simp only [List.cons_append, execAll]
    cases exec i s with
    | next t => exact ih t
    | fault e => rfl
    | refused e => rfl

theorem Leads.append {i : Fin 10} {s : State} {l m : List Instr} {c d e : Chip} (h : Leads i s l c d)
    (k : Leads i s m d e) : Leads i s (l ++ m) c e := by
  unfold Leads at h k ⊢
  rw [execAll_append, h]
  exact k

theorem leads_one {i : Fin 10} {s : State} {j : Instr} {c d : Chip}
    (h : exec j (s.setChip i c) = .next ((s.setChip i c).setChip i d)) : Leads i s [j] c d := by
  simp only [Leads, execAll, h, andThen, setChip_setChip]

theorem leads_writeWave {win : BitVec 11} {v : Voice} {s : State} {i : Fin 10} {c : Chip} (val : Byte)
    (h : s.reaches (busAddr win (voiceReg v 4)) i) (hc : c.life ≠ .uninit) :
    Leads i s [.writeWave win v val] c (waveWritten win v val c) :=
  leads_one ((exec_writeWave_of_reaches val (reaches_setChip c h hc)).trans (by rw [chip_setChip_same]))

theorem leads_writeFreqHi {win : BitVec 11} {v : Voice} {s : State} {i : Fin 10} {c : Chip} (val : Byte)
    (h : s.reaches (busAddr win (voiceReg v 1)) i) (hc : c.life ≠ .uninit) :
    Leads i s [.writeFreqHi win v val] c (freqHiWritten win v val c) :=
  leads_one ((exec_writeFreqHi_of_reaches val (reaches_setChip c h hc)).trans (by rw [chip_setChip_same]))

theorem leads_writePwLo {win : BitVec 11} {v : Voice} {s : State} {i : Fin 10} {c : Chip} (val : Byte)
    (h : s.reaches (busAddr win (voiceReg v 2)) i) (hc : c.life ≠ .uninit) :
    Leads i s [.writePwLo win v val] c (pulseWritten win v .lo val c) :=
  leads_one ((exec_writePwLo_of_reaches val (reaches_setChip c h hc)).trans (by rw [chip_setChip_same]))

/-! ### Cycles between (R181) -/

theorem clockChip_iterate_life {c : Chip} (n : Nat) (hc : c.life ≠ .uninit) : (clockChip^[n] c).life ≠ .uninit := by
  induction n with
  | zero => exact hc
  | succ n _ =>
    rw [Function.iterate_succ_apply']
    simp [clockChip]

/-- A cycle moves neither the detector nor the registers nor the mutes. -/
theorem clockChip_iterate_quiet (n : Nat) (c : Chip) :
    (clockChip^[n] c).det = c.det ∧ (clockChip^[n] c).mute = c.mute ∧ (clockChip^[n] c).regs = c.regs := by
  induction n with
  | zero => exact ⟨rfl, rfl, rfl⟩
  | succ n ih =>
    rw [Function.iterate_succ_apply']
    exact ih

theorem clockChip_iterate_cyc (n : Nat) (c : Chip) : (clockChip^[n] c).cyc = c.cyc + BitVec.ofNat 32 n := by
  induction n with
  | zero => simp
  | succ n ih =>
    rw [Function.iterate_succ_apply']
    change (clockChip^[n] c).cyc + 1 = _
    rw [ih, BitVec.ofNat_add, ← BitVec.add_assoc]
    rfl

theorem leads_clocks {c : BitVec 8} {i : Fin 10} (hc : chipIndex c = some i) (s : State) (n : Nat) {d : Chip}
    (hd : d.life ≠ .uninit) : Leads i s (List.replicate n (.clock c)) d (clockChip^[n] d) := by
  induction n generalizing d with
  | zero => rfl
  | succ n ih =>
    have hone : Leads i s [.clock c] d (clockChip d) := by
      refine leads_one ?_
      have hlife : ((s.setChip i d).chip i).life ≠ .uninit := by rwa [chip_setChip_same]
      have hclock := clockAt_of_life i (s.setChip i d) hlife
      rw [chip_setChip_same] at hclock
      change execClock c (s.setChip i d) = _
      simpa only [execClock, hc] using hclock
    exact hone.append (ih (by simp [clockChip]))

/-- Fewer than 2^32 cycles after a time stamp, the test is whether they are fewer than the timeout (D22). -/
theorem within_add_iff (ts : BitVec 32) {n : Nat} (hn : n < 2 ^ 32) (timeout : Nat) :
    within (ts + BitVec.ofNat 32 n) ts timeout = true ↔ n < timeout := by
  have hgap : ts + BitVec.ofNat 32 n - ts = BitVec.ofNat 32 n := by
    rw [BitVec.add_comm, BitVec.add_sub_cancel]
  rw [within, hgap, BitVec.toNat_ofNat, Nat.mod_eq_of_lt hn, decide_eq_true_iff]

/-! ### What a WRITE to a voice register leaves outside the detector -/

theorem writeChip_cyc_life_en (a : Addr) (val : Byte) {poke : Chip → Chip} (hp : RegisterRule poke) (c : Chip) :
    (writeChip a val poke c).cyc = c.cyc ∧ (writeChip a val poke c).life = .active
      ∧ (writeChip a val poke c).det.en = c.det.en := by
  have hdet := writeChip_det a val hp c
  rw [hdet, detectSample_det_en]
  rw [writeChip_outside_registers a val hp c]
  exact ⟨rfl, rfl, rfl⟩

theorem waveWritten_cyc_life_en (win : BitVec 11) (v : Voice) (val : Byte) (c : Chip) :
    (waveWritten win v val c).cyc = c.cyc ∧ (waveWritten win v val c).life = .active
      ∧ (waveWritten win v val c).det.en = c.det.en :=
  writeChip_cyc_life_en _ val (registerRule_pokeWave v val) c

theorem freqHiWritten_cyc_life_en (win : BitVec 11) (v : Voice) (val : Byte) (c : Chip) :
    (freqHiWritten win v val c).cyc = c.cyc ∧ (freqHiWritten win v val c).life = .active
      ∧ (freqHiWritten win v val c).det.en = c.det.en :=
  writeChip_cyc_life_en _ val (registerRule_pokeFreqHi v val) c

theorem pwLoWritten_cyc_life_en (win : BitVec 11) (v : Voice) (val : Byte) (c : Chip) :
    (pulseWritten win v .lo val c).cyc = c.cyc ∧ (pulseWritten win v .lo val c).life = .active
      ∧ (pulseWritten win v .lo val c).det.en = c.det.en :=
  writeChip_cyc_life_en _ val (registerRule_pokePwLo v val) c

/-- The envelope condition reads registers that no write to the waveform or the pulse width touches (R247). -/
theorem swEnv_waveWritten (win : BitVec 11) (v : Voice) (val : Byte) (c : Chip) :
    swEnv (waveWritten win v val c) v = swEnv c v := by
  have hregs : (waveWritten win v val c).regs = c.regs.set v { c.regs.get v with wave := val } := by
    rw [waveWritten, writeChip_eq]
    rfl
  rw [Bool.eq_iff_iff, swEnv_iff, swEnv_iff]
  simp only [getAD, getSR, hregs, PerVoice.get_set_same]

end Sys2Proof.Machine

/-! The FM sequence (43_digi_detector.md R228, R230 to R232). -/

namespace Sys2Proof.Machine

open Sys2Proof.Laws

/-- From `c` to `d` nothing was captured, the FM automata of the other voices stand still, and that of voice `v` is in
phase `p`, which but for the idle one it entered `n` cycles ago. -/
structure FmWaits (v : Voice) (c : Chip) (p : FmPhase) (n : Nat) (d : Chip) : Prop where
  nothing : NothingCaptured c d
  en : d.det.en = true
  life : d.life ≠ .uninit
  others : ∀ u, u ≠ v → d.det.fm.get u = c.det.fm.get u
  phase : (d.det.fm.get v).phase = p
  elapsed : p ≠ .idle → d.cyc = (d.det.fm.get v).ts + BitVec.ofNat 32 n

theorem FmWaits.clocked {v : Voice} {c d : Chip} {p : FmPhase} (h : FmWaits v c p 0 d) (n : Nat) :
    FmWaits v c p n (clockChip^[n] d) := by
  obtain ⟨hdet, hmute, _⟩ := clockChip_iterate_quiet n d
  refine ⟨nothingCaptured_of_eq hdet hmute h.nothing, hdet ▸ h.en, clockChip_iterate_life n h.life, ?_, ?_, fun hp => ?_⟩
  · rw [hdet]
    exact h.others
  · rw [hdet]
    exact h.phase
  · rw [clockChip_iterate_cyc, hdet, h.elapsed hp, BitVec.add_zero]

/-- Where the automaton is past its idle phase, the test of the gap is whether the gap is below the timeout. -/
theorem FmWaits.within_iff {v : Voice} {c d : Chip} {p : FmPhase} {n : Nat} (h : FmWaits v c p n d) (hp : p ≠ .idle)
    (hn : n < 2 ^ 32) : within d.cyc (d.det.fm.get v).ts Config.fmTimeout = true ↔ n < Config.fmTimeout := by
  rw [h.elapsed hp]
  exact within_add_iff _ hn _

/-- A waveform byte that no automaton takes moves the FM automaton by `fmNext`. -/
theorem FmWaits.wave {v : Voice} {c d : Chip} {p q : FmPhase} {n : Nat} (h : FmWaits v c p n d) (win : BitVec 11)
    {val : Byte} (hnot : ¬ fmTakes d v val) (hval : val ≠ pulseGate) (hq : (fmNext d.cyc val (d.det.fm.get v)).phase = q)
    (hts : q ≠ .idle → (fmNext d.cyc val (d.det.fm.get v)).ts = d.cyc) :
    FmWaits v c q 0 (waveWritten win v val d) := by
  obtain ⟨hcap, hfm, _, _⟩ := waveWritten_of_not_taken win h.en hnot (fun hpw => hval hpw.1)
  obtain ⟨hcyc, hlife, hen⟩ := waveWritten_cyc_life_en win v val d
  refine ⟨h.nothing.trans hcap, hen.trans h.en, by simp [hlife], fun u hu => ?_, ?_, fun hq' => ?_⟩
  · rw [hfm, PerVoice.get_set_ne _ _ _ _ hu, h.others u hu]
  · rw [hfm, PerVoice.get_set_same, hq]
  · rw [hfm, PerVoice.get_set_same, hts hq', hcyc, BitVec.add_zero]

/-- A high frequency byte that is not the payload's last step moves the FM automaton by `fmHiNext`. -/
theorem FmWaits.freqHi {v : Voice} {c d : Chip} {p q : FmPhase} {n : Nat} (h : FmWaits v c p n d) (win : BitVec 11)
    {val : Byte} (hnot : ¬ (p = .variant1 ∧ within d.cyc (d.det.fm.get v).ts Config.fmTimeout = true))
    (hq : (fmHiNext d.cyc val (d.det.fm.get v)).phase = q)
    (hts : q ≠ .idle → (fmHiNext d.cyc val (d.det.fm.get v)).ts = d.cyc) :
    FmWaits v c q 0 (freqHiWritten win v val d)
      ∧ (freqHiWritten win v val d).det.fm.get v = fmHiNext d.cyc val (d.det.fm.get v) := by
  obtain ⟨hcap, hfm⟩ := freqHiWritten_of_not_variant1 win val h.en (h.phase ▸ hnot)
  obtain ⟨hcyc, hlife, hen⟩ := freqHiWritten_cyc_life_en win v val d
  have hget : (freqHiWritten win v val d).det.fm.get v = fmHiNext d.cyc val (d.det.fm.get v) := by
    rw [hfm, PerVoice.get_set_same]
  refine ⟨⟨h.nothing.trans hcap, hen.trans h.en, by simp [hlife], fun u hu => ?_, ?_, fun hq' => ?_⟩, hget⟩
  · rw [hfm, PerVoice.get_set_ne _ _ _ _ hu, h.others u hu]
  · rw [hget, hq]
  · rw [hget, hts hq', hcyc, BitVec.add_zero]

/-! ### The steps of the sequence -/

/-- Triangle+gate starts the sequence from any phase. -/
theorem fmWaits_prep {v : Voice} {c : Chip} (win : BitVec 11) (hen : c.det.en = true) :
    FmWaits v c .prep 0 (waveWritten win v triGate c) := by
  have hnot : ¬ fmTakes c v triGate := fun h => absurd h.1 (by decide)
  have hseen := waveWritten_of_not_taken win hen hnot (fun h => absurd h.1 (by decide))
  obtain ⟨hcap, hfm, _, _⟩ := hseen
  obtain ⟨hcyc, hactive, hen'⟩ := waveWritten_cyc_life_en win v triGate c
  refine ⟨hcap, hen'.trans hen, by simp [hactive], fun u hu => ?_, ?_, fun _ => ?_⟩
  · rw [hfm, PerVoice.get_set_ne _ _ _ _ hu]
  · rw [hfm, PerVoice.get_set_same, fmNext, if_pos rfl]
  · rw [hfm, PerVoice.get_set_same, fmNext, if_pos rfl, hcyc, BitVec.add_zero]

/-- Test+gate in time after triangle+gate. -/
theorem FmWaits.toSet {v : Voice} {c d : Chip} {n : Nat} (h : FmWaits v c .prep n d) (win : BitVec 11) (hn : n < 2 ^ 32) :
    FmWaits v c (if n < Config.fmTimeout then .set else .idle) 0 (waveWritten win v testGate d) := by
  have htime := h.within_iff (by decide) hn
  refine h.wave win (fun e => absurd e.1 (by decide)) (by decide) ?_ ?_ <;>
    · unfold fmNext
      rw [if_neg (by decide : testGate ≠ triGate)]
      by_cases hlt : n < Config.fmTimeout
      · simp [hlt, htime, h.phase]
      · simp [hlt, htime, h.phase, testGate, gateOnly]

/-- Gate-only in time after test+gate: the first ordering. -/
theorem FmWaits.variant1 {v : Voice} {c d : Chip} {n : Nat} {ok : Prop} [Decidable ok]
    (h : FmWaits v c (if ok then .set else .idle) n d) (win : BitVec 11) (hn : n < 2 ^ 32) :
    FmWaits v c (if ok ∧ n < Config.fmTimeout then .variant1 else .idle) 0 (waveWritten win v gateOnly d) := by
  have hnot : ¬ fmTakes d v gateOnly := by
    rintro ⟨_, hphase, _⟩
    rw [h.phase] at hphase
    split at hphase <;> cases hphase
  have hdiffer : gateOnly ≠ triGate ∧ gateOnly ≠ testGate := by decide
  by_cases hok : ok
  · have hphase := h.phase
    have htime := h.within_iff (by simp [hok]) hn
    refine h.wave win hnot (by decide) ?_ ?_ <;>
      · by_cases hlt : n < Config.fmTimeout <;> simp [fmNext, hdiffer, hok, hlt, htime, hphase]
  · have hphase := h.phase
    refine h.wave win hnot (by decide) ?_ ?_ <;> simp [fmNext, hdiffer, hok, hphase]

/-- The payload in time after test+gate: the second ordering. -/
theorem FmWaits.variant2 {v : Voice} {c d : Chip} {n : Nat} {ok : Prop} [Decidable ok]
    (h : FmWaits v c (if ok then .set else .idle) n d) (win : BitVec 11) (val : Byte) (hn : n < 2 ^ 32) :
    FmWaits v c (if ok ∧ n < Config.fmTimeout then .variant2 else .idle) 0 (freqHiWritten win v val d)
      ∧ (ok ∧ n < Config.fmTimeout → ((freqHiWritten win v val d).det.fm.get v).pend = val) := by
  have hnot : ∀ P : Prop, ¬ ((if ok then FmPhase.set else .idle) = .variant1 ∧ P) := by
    rintro P ⟨e, _⟩
    split at e <;> cases e
  have hphase := h.phase
  by_cases hok : ok
  · have htime := h.within_iff (by simp [hok]) hn
    rw [if_pos hok] at hphase
    have hnext : fmHiNext d.cyc val (d.det.fm.get v) =
        if n < Config.fmTimeout then ⟨.variant2, d.cyc, val⟩ else { d.det.fm.get v with phase := .idle } := by
      simp only [fmHiNext, hphase, htime]
    obtain ⟨hwaits, hget⟩ := h.freqHi (q := if ok ∧ n < Config.fmTimeout then .variant2 else .idle) win (val := val)
      (hnot _) (by rw [hnext]; split <;> simp_all) (by rw [hnext]; split <;> simp_all)
    exact ⟨hwaits, fun hin => by rw [hget, hnext, if_pos hin.2]⟩
  · rw [if_neg hok] at hphase
    have hnext : fmHiNext d.cyc val (d.det.fm.get v) = d.det.fm.get v := by simp only [fmHiNext, hphase]
    obtain ⟨hwaits, -⟩ := h.freqHi (q := if ok ∧ n < Config.fmTimeout then .variant2 else .idle) win (val := val)
      (hnot _) (by rw [hnext, hphase]; simp [hok]) (by simp [hok])
    exact ⟨hwaits, fun hin => absurd hin.1 hok⟩

/-- What the sequence leaves: the sample, or nothing captured. -/
structure FmEnds (v : Voice) (val : Byte) (c : Chip) (ok : Prop) (d : Chip) : Prop where
  captured : ok → d.det.type = .fm ∧ d.det.src = .voice v ∧ d.det.sample = val ∧ d.mute.get v = true
    ∧ d.det.muted.get v = true ∧ (d.det.fm.get v).phase = .idle
  missed : ¬ ok → NothingCaptured c d
  others : ∀ u, u ≠ v → d.det.fm.get u = c.det.fm.get u

theorem fmEnds_of_capture {v : Voice} {c d e f : Chip} {val : Byte} {m : FmRec} {ok : Prop} (hok : ok)
    (hothers : ∀ u, u ≠ v → d.det.fm.get u = c.det.fm.get u)
    (hdet : f.det = (capture .fm v val (setFm v { m with phase := .idle } e)).det)
    (hmute : f.mute = (capture .fm v val (setFm v { m with phase := .idle } e)).mute) (he : e.det = d.det) :
    FmEnds v val c ok f where
  captured _ := by
    rw [hdet, hmute]
    refine ⟨capture_det_type .., capture_det_src .., capture_det_sample .., capture_mute_get .., capture_det_muted_get ..,
      ?_⟩
    rw [capture_det_fm, setFm_det_fm, PerVoice.get_set_same]
  missed h := absurd hok h
  others u hu := by
    rw [hdet, capture_det_fm, setFm_det_fm, PerVoice.get_set_ne _ _ _ _ hu, he, hothers u hu]

/-- The payload ends the first ordering. -/
theorem FmWaits.ends_freqHi {v : Voice} {c d : Chip} {n : Nat} {ok : Prop} [Decidable ok]
    (h : FmWaits v c (if ok then .variant1 else .idle) n d) (win : BitVec 11) (val : Byte) (hn : n < 2 ^ 32) :
    FmEnds v val c (ok ∧ n < Config.fmTimeout) (freqHiWritten win v val d) := by
  have htime : ok → (within d.cyc (d.det.fm.get v).ts Config.fmTimeout = true ↔ n < Config.fmTimeout) :=
    fun hok => h.within_iff (by simp [hok]) hn
  by_cases hin : ok ∧ n < Config.fmTimeout
  · have hphase := h.phase
    rw [if_pos hin.1] at hphase
    obtain ⟨hdet, hmute⟩ := freqHiWritten_of_variant1 win val h.en hphase ((htime hin.1).mpr hin.2)
    exact fmEnds_of_capture hin h.others hdet hmute rfl
  · have hnot : ¬ ((d.det.fm.get v).phase = .variant1 ∧ within d.cyc (d.det.fm.get v).ts Config.fmTimeout = true) := by
      rw [h.phase]
      rintro ⟨hphase, hlt⟩
      by_cases hok : ok
      · exact hin ⟨hok, (htime hok).mp hlt⟩
      · rw [if_neg hok] at hphase
        cases hphase
    obtain ⟨hcap, hfm⟩ := freqHiWritten_of_not_variant1 win val h.en hnot
    refine ⟨fun hok => absurd hok hin, fun _ => h.nothing.trans hcap, fun u hu => ?_⟩
    rw [hfm, PerVoice.get_set_ne _ _ _ _ hu, h.others u hu]

/-- Gate-only ends the second ordering. -/
theorem FmWaits.ends_wave {v : Voice} {c d : Chip} {n : Nat} {ok : Prop} [Decidable ok] {val : Byte}
    (h : FmWaits v c (if ok then .variant2 else .idle) n d) (hpend : ok → (d.det.fm.get v).pend = val)
    (win : BitVec 11) (hn : n < 2 ^ 32) :
    FmEnds v val c (ok ∧ n < Config.fmTimeout) (waveWritten win v gateOnly d) := by
  have htime : ok → (within d.cyc (d.det.fm.get v).ts Config.fmTimeout = true ↔ n < Config.fmTimeout) :=
    fun hok => h.within_iff (by simp [hok]) hn
  by_cases hin : ok ∧ n < Config.fmTimeout
  · have hphase := h.phase
    rw [if_pos hin.1] at hphase
    obtain ⟨hdet, hmute⟩ := waveWritten_of_fmTakes win h.en ⟨rfl, hphase, (htime hin.1).mpr hin.2⟩
    rw [hpend hin.1] at hdet hmute
    exact fmEnds_of_capture hin h.others hdet hmute rfl
  · have hnot : ¬ fmTakes d v gateOnly := by
      rintro ⟨_, hphase, hlt⟩
      rw [h.phase] at hphase
      by_cases hok : ok
      · exact hin ⟨hok, (htime hok).mp hlt⟩
      · rw [if_neg hok] at hphase
        cases hphase
    obtain ⟨hcap, hfm, _, _⟩ := waveWritten_of_not_taken win h.en hnot (fun hpw => absurd hpw.1 (by decide))
    refine ⟨fun hok => absurd hok hin, fun _ => h.nothing.trans hcap, fun u hu => ?_⟩
    rw [hfm, PerVoice.get_set_ne _ _ _ _ hu, h.others u hu]

end Sys2Proof.Machine

namespace Sys2Proof.Proofs

open Sys2Proof.Machine Sys2Proof.Laws

/-- Settles O34: each command moves the automaton of the voice one step where its gap is below the timeout, and to idle
where it is not, from where no later step leads to a capture. -/
theorem fmSequenceCaptures : Obligations.FmSequenceCaptures := by
  intro win v val c i a b g frequencyFirst s hwave hfreq hc hen ha hb hg gate payload
  have h1 : FmWaits v (s.chip i) .prep 0 _ := fmWaits_prep win hen
  have h2 := h1.clocked a
  have h3 := h2.toSet win ha
  have h4 := h3.clocked b
  have hstart : Leads i s ([Instr.writeWave win v 0x11] ++ List.replicate a (.clock c) ++ [.writeWave win v 0x09]
      ++ List.replicate b (.clock c)) (s.chip i) _ :=
    (((leads_writeWave triGate hwave hwave.2).append (leads_clocks hc s a h1.life)).append
      (leads_writeWave testGate hwave h2.life)).append (leads_clocks hc s b h3.life)
  obtain ⟨d, hleads, hends⟩ : ∃ d, Leads i s ([Instr.writeWave win v 0x11] ++ List.replicate a (.clock c)
      ++ [.writeWave win v 0x09] ++ List.replicate b (.clock c) ++ [if frequencyFirst then payload else gate]
      ++ List.replicate g (.clock c) ++ [if frequencyFirst then gate else payload]) (s.chip i) d
      ∧ FmEnds v val (s.chip i) ((a < Config.fmTimeout ∧ b < Config.fmTimeout) ∧ g < Config.fmTimeout) d := by
    cases frequencyFirst with
    | true =>
      obtain ⟨h5, hpend⟩ := h4.variant2 win val hb
      have h6 := h5.clocked g
      refine ⟨_, ((hstart.append (leads_writeFreqHi val hfreq h4.life)).append (leads_clocks hc s g h5.life)).append
        (leads_writeWave gateOnly hwave h6.life), h6.ends_wave (fun hok => ?_) win hg⟩
      rw [(clockChip_iterate_quiet g _).1]
      exact hpend hok
    | false =>
      have h5 := h4.variant1 win hb
      have h6 := h5.clocked g
      exact ⟨_, ((hstart.append (leads_writeWave gateOnly hwave h4.life)).append (leads_clocks hc s g h5.life)).append
        (leads_writeFreqHi val hfreq h6.life), h6.ends_freqHi win val hg⟩
  have hrun := hleads
  rw [Leads, setChip_chip] at hrun
  refine ⟨_, hrun, ?_, ?_⟩
  · rw [chip_setChip_same]
    split
    · next hin => exact hends.captured ⟨⟨hin.1, hin.2.1⟩, hin.2.2⟩
    · next hout =>
      have hcap := hends.missed fun hin => hout ⟨hin.1.1, hin.1.2, hin.2⟩
      exact ⟨hcap.type, hcap.src, hcap.sample, hcap.count, hcap.mute⟩
  · rw [chip_setChip_same]
    exact hends.others

end Sys2Proof.Proofs

/-! The PWM-test sequence (43_digi_detector.md R228, R240, R241). -/

namespace Sys2Proof.Machine

open Sys2Proof.Laws

/-- From `c` to `d` the PWM-test automaton of voice `v` came to phase `p` `n` cycles ago, and nothing was captured where
Swallow was `quiet`. -/
structure PwWaits (v : Voice) (c : Chip) (quiet : Prop) (p : PwPhase) (n : Nat) (d : Chip) : Prop where
  nothing : quiet → NothingCaptured c d
  en : d.det.en = true
  life : d.life ≠ .uninit
  phase : (d.det.pw.get v).phase = p
  elapsed : d.cyc = (d.det.pw.get v).ts + BitVec.ofNat 32 n

theorem PwWaits.clocked {v : Voice} {c d : Chip} {quiet : Prop} {p : PwPhase} (h : PwWaits v c quiet p 0 d) (n : Nat) :
    PwWaits v c quiet p n (clockChip^[n] d) := by
  obtain ⟨hdet, hmute, _⟩ := clockChip_iterate_quiet n d
  refine ⟨fun hq => nothingCaptured_of_eq hdet hmute (h.nothing hq), hdet ▸ h.en, clockChip_iterate_life n h.life, ?_, ?_⟩
  · rw [hdet]
    exact h.phase
  · rw [clockChip_iterate_cyc, hdet, h.elapsed, BitVec.add_zero]

theorem PwWaits.within_iff {v : Voice} {c d : Chip} {quiet : Prop} {p : PwPhase} {n : Nat} (h : PwWaits v c quiet p n d)
    (hn : n < 2 ^ 32) : within d.cyc (d.det.pw.get v).ts Config.pwmTimeout = true ↔ n < Config.pwmTimeout := by
  rw [h.elapsed]
  exact within_add_iff _ hn _

/-- Pulse+test+gate: the second step of ordering A in time after the payload, the first of ordering B otherwise. -/
theorem pwWaits_test {v : Voice} {c d : Chip} {quiet : Prop} (win : BitVec 11) (hen : d.det.en = true)
    (hnothing : quiet → NothingCaptured c d) :
    PwWaits v c quiet
        (if (d.det.pw.get v).phase = .prepA ∧ within d.cyc (d.det.pw.get v).ts Config.pwmTimeout = true then .confirmA
          else .prepB) 0 (waveWritten win v pulseTestGate d)
      ∧ ((waveWritten win v pulseTestGate d).det.pw.get v).pend = (d.det.pw.get v).pend := by
  obtain ⟨hcap, _, hpw, _⟩ := waveWritten_of_not_taken (val := pulseTestGate) win hen
    (fun h : fmTakes d v _ => absurd h.1 (by decide)) (fun h => absurd h.1 (by decide))
  obtain ⟨hcyc, hlife, hen'⟩ := waveWritten_cyc_life_en win v pulseTestGate d
  have hget : (waveWritten win v pulseTestGate d).det.pw.get v = pwNext d.cyc pulseTestGate (d.det.pw.get v) := by
    rw [hpw, PerVoice.get_set_same]
  rw [pwNext, if_pos rfl] at hget
  refine ⟨⟨fun hq => (hnothing hq).trans hcap, hen'.trans hen, by simp [hlife], by rw [hget], ?_⟩, by rw [hget]⟩
  rw [hget, hcyc, BitVec.add_zero]

/-- The payload: the second step of ordering B in time after pulse+test+gate, the first of ordering A otherwise. -/
theorem pwWaits_payload {v : Voice} {c d : Chip} {quiet : Prop} (win : BitVec 11) (val : Byte) (hen : d.det.en = true)
    (hnothing : quiet → NothingCaptured c d) (hquiet : quiet → d.det.sw.get v = none ∨ swEnv d v = false) :
    PwWaits v c quiet
        (if (d.det.pw.get v).phase = .prepB ∧ within d.cyc (d.det.pw.get v).ts Config.pwmTimeout = true then .confirmB
          else .prepA) 0 (pulseWritten win v .lo val d)
      ∧ ((pulseWritten win v .lo val d).det.pw.get v).pend = val := by
  obtain ⟨_, hpw⟩ := pulseWritten_automata win v .lo val hen
  obtain ⟨hcyc, hlife, hen'⟩ := pwLoWritten_cyc_life_en win v val d
  have hget : (pulseWritten win v .lo val d).det.pw.get v = pwLoNext d.cyc val (d.det.pw.get v) := by
    rw [hpw, PerVoice.get_set_same]
    rfl
  have hcap : quiet → NothingCaptured d (pulseWritten win v .lo val d) := fun hq =>
    (pulseWritten_of_no_payload win hen ((hquiet hq).imp_right .inl)).1
  refine ⟨⟨fun hq => (hnothing hq).trans (hcap hq), hen'.trans hen, by simp [hlife], by rw [hget, pwLoNext], ?_⟩,
    by rw [hget, pwLoNext]⟩
  rw [hget, hcyc, pwLoNext, BitVec.add_zero]

/-- What the sequence leaves: the sample, or nothing captured where Swallow was quiet; and the automaton idle. -/
structure PwEnds (v : Voice) (val : Byte) (c : Chip) (quiet ok : Prop) (d : Chip) : Prop where
  captured : ok → d.det.type = .pwm ∧ d.det.src = .voice v ∧ d.det.sample = val ∧ d.mute.get v = true
    ∧ d.det.muted.get v = true
  missed : ¬ ok → quiet → NothingCaptured c d
  idle : (d.det.pw.get v).phase = .idle

/-- Pulse+gate ends the sequence: it captures in time after the second step of either ordering. -/
theorem PwWaits.ends {v : Voice} {c d : Chip} {quiet ok : Prop} {p : PwPhase} {n : Nat} {val : Byte}
    (h : PwWaits v c quiet p n d) (hp : p = .confirmA ∨ p = .confirmB ↔ ok) (hpend : ok → (d.det.pw.get v).pend = val)
    (win : BitVec 11) (hn : n < 2 ^ 32) :
    PwEnds v val c quiet (ok ∧ n < Config.pwmTimeout) (waveWritten win v pulseGate d) := by
  have htime := h.within_iff hn
  have hfm : ¬ fmTakes d v pulseGate := fun e => absurd e.1 (by decide)
  have htakes : pwTakes d v pulseGate ↔ ok ∧ n < Config.pwmTimeout := by
    rw [pwTakes, htime, h.phase, hp]
    simp
  by_cases hin : ok ∧ n < Config.pwmTimeout
  · obtain ⟨hdet, hmute⟩ := waveWritten_of_pwTakes win h.en (htakes.mpr hin)
    rw [hpend hin.1] at hdet hmute
    refine ⟨fun _ => ?_, fun hout => absurd hin hout, ?_⟩
    · rw [hdet, hmute]
      exact ⟨capture_det_type .., capture_det_src .., capture_det_sample .., capture_mute_get .., capture_det_muted_get ..⟩
    · rw [hdet, capture_det_pw, setPw_det_pw, PerVoice.get_set_same]
  · obtain ⟨hcap, _, hpw, _⟩ := waveWritten_of_not_taken win h.en hfm (mt htakes.mp hin)
    refine ⟨fun hok => absurd hok hin, fun _ hq => (h.nothing hq).trans hcap, ?_⟩
    rw [hpw, PerVoice.get_set_same, pwNext, if_neg (by decide)]

/-- Swallow stays quiet over pulse+test+gate: not under the envelope condition, or unarmed and not armed by it (R248). -/
theorem swallow_quiet_of_test {v : Voice} {c : Chip} (win : BitVec 11) (hen : c.det.en = true)
    (h : swEnv c v = false ∨ c.det.sw.get v = none ∧ Config.swallowTrans (getWave c v) pulseTestGate = false) :
    (waveWritten win v pulseTestGate c).det.sw.get v = none ∨ swEnv (waveWritten win v pulseTestGate c) v = false := by
  obtain ⟨_, _, _, hsw⟩ := waveWritten_of_not_taken (val := pulseTestGate) win hen
    (fun h : fmTakes c v _ => absurd h.1 (by decide)) (fun h => absurd h.1 (by decide))
  rw [swEnv_waveWritten]
  rcases h with henv | ⟨hnone, htrans⟩
  · exact .inr henv
  · rw [hsw, if_neg (by simp [htrans])]
    exact .inl hnone

theorem swEnv_iterate_clockChip (n : Nat) (c : Chip) (v : Voice) : swEnv (clockChip^[n] c) v = swEnv c v := by
  have hregs := (clockChip_iterate_quiet n c).2.2
  rw [Bool.eq_iff_iff, swEnv_iff, swEnv_iff]
  simp only [getAD, getSR, hregs]

end Sys2Proof.Machine

namespace Sys2Proof.Proofs

open Sys2Proof.Machine Sys2Proof.Laws

/-- Settles O35: the first two writes bring the automaton to the second step of their ordering exactly where the gap
between them is below the timeout, and the third ends it. -/
theorem pwmTestSequenceCaptures : Obligations.PwmTestSequenceCaptures := by
  intro win v val c i a b testFirst s hlo hwave hc hen ha hb hphase test payload envelope swallowQuiet
  have hquietEnv : swallowQuiet → swEnv (s.chip i) v = false ∨ (s.chip i).det.sw.get v = none
      ∧ (testFirst = true → Config.swallowTrans (getWave (s.chip i) v) pulseTestGate = false) :=
    Or.imp_left fun h => Bool.eq_false_iff.mpr fun e => h ((swEnv_iff _ _).mp e)
  have hrefl : swallowQuiet → NothingCaptured (s.chip i) (s.chip i) := fun _ => ⟨rfl, rfl, rfl, rfl, rfl, rfl⟩
  obtain ⟨d, hleads, hends⟩ : ∃ d, Leads i s ([if testFirst then test else payload] ++ List.replicate a (.clock c)
      ++ [if testFirst then payload else test] ++ List.replicate b (.clock c) ++ [.writeWave win v 0x41]) (s.chip i) d
      ∧ PwEnds v val (s.chip i) swallowQuiet (a < Config.pwmTimeout ∧ b < Config.pwmTimeout) d := by
    cases testFirst with
    | true =>
      have h1 := (pwWaits_test (v := v) win hen hrefl).1
      rw [if_neg fun e => hphase e.1] at h1
      have h2 := h1.clocked a
      have hquiet : swallowQuiet → _ := fun hq =>
        swallow_quiet_of_test win hen ((hquietEnv hq).imp_right fun h => ⟨h.1, h.2 rfl⟩)
      rw [← (clockChip_iterate_quiet a _).1, ← swEnv_iterate_clockChip a] at hquiet
      obtain ⟨h3, hpend⟩ := pwWaits_payload win val h2.en h2.nothing hquiet
      have h4 := h3.clocked b
      have hp := h2.within_iff ha
      refine ⟨_, ((((leads_writeWave pulseTestGate hwave hwave.2).append (leads_clocks hc s a h1.life)).append
        (leads_writePwLo val hlo h2.life)).append (leads_clocks hc s b h3.life)).append
          (leads_writeWave pulseGate hwave h4.life), h4.ends ?_ (fun _ => ?_) win hb⟩
      · simp only [h2.phase, hp]
        by_cases hlt : a < Config.pwmTimeout <;> simp [hlt]
      · rw [(clockChip_iterate_quiet b _).1]
        exact hpend
    | false =>
      obtain ⟨h1, hpend⟩ := pwWaits_payload win val hen hrefl (fun hq => ((hquietEnv hq).imp_right And.left).symm)
      rw [if_neg fun e => hphase e.1] at h1
      have h2 := h1.clocked a
      obtain ⟨h3, hkept⟩ := pwWaits_test (v := v) win h2.en h2.nothing
      have h4 := h3.clocked b
      have hp := h2.within_iff ha
      refine ⟨_, ((((leads_writePwLo val hlo hlo.2).append (leads_clocks hc s a h1.life)).append
        (leads_writeWave pulseTestGate hwave h2.life)).append (leads_clocks hc s b h3.life)).append
          (leads_writeWave pulseGate hwave h4.life), h4.ends ?_ (fun _ => ?_) win hb⟩
      · simp only [h2.phase, hp]
        by_cases hlt : a < Config.pwmTimeout <;> simp [hlt]
      · rw [(clockChip_iterate_quiet b _).1, hkept, (clockChip_iterate_quiet a _).1]
        exact hpend
  have hrun := hleads
  rw [Leads, setChip_chip] at hrun
  refine ⟨_, hrun, ?_⟩
  rw [chip_setChip_same]
  refine ⟨hends.captured, fun hout hq => ?_, hends.idle⟩
  have hcap := hends.missed hout hq
  exact ⟨hcap.type, hcap.src, hcap.sample, hcap.count, hcap.mute⟩

end Sys2Proof.Proofs

/-! The render pipeline (44_render.md R291 to R300): what one tick computes, with the visualisation histories kept apart,
which nothing but the trace words reads. -/

namespace Sys2Proof.Machine

open Sys2Proof.Laws

/-! ### The visualisation histories, kept apart (10_state.md R40) -/

/-- The chip with other visualisation histories. -/
def withVis (p : PerVoice Hist) (c : Chip) : Chip := { c with filter := { c.filter with fs := p } }

theorem withVis_same {p : PerVoice Hist} {c : Chip} (h : c.filter.fs = p) : withVis p c = c := by
  rw [← h]
  rfl

theorem audible_eq_withVis (c : Chip) : c.audible = withVis (perVoice zeroHist) c := rfl

theorem psidAdvance_withVis (p : PerVoice Hist) (c : Chip) : psidAdvance (withVis p c) = withVis p (psidAdvance c) := by
  unfold psidAdvance
  by_cases h : psidRuns c = true
  · rw [if_pos h, if_pos (show psidRuns (withVis p c) = true from h)]
    rfl
  · rw [if_neg h, if_neg (show ¬ psidRuns (withVis p c) = true from h)]

/-! ### The voices of a tick (R291, R293 to R295, R303) -/

/-- A value for each voice. -/
def byVoice {α : Type} (f : Voice → α) : PerVoice α := ⟨f .v0, f .v1, f .v2⟩

@[simp] theorem get_byVoice {α : Type} (f : Voice → α) (v : Voice) : (byVoice f).get v = f v := by cases v <;> rfl

/-- A voice's scaled level, 0 for a muted voice. -/
def voiceShare (c : Chip) (scale : Byte) (v : Voice) : Int :=
  if c.mute.get v = true then 0 else scaleBy (voiceLevel c v) scale

/-- The sums over the three voices. -/
def voiceSums (c : Chip) (scale : Byte) : Sums :=
  routeSignal c.filter (voiceShare c scale .v2)
    (routeSignal c.filter (voiceShare c scale .v1) (routeSignal c.filter (voiceShare c scale .v0) ⟨0, 0⟩ .v0) .v1) .v2

/-- The trace word of a voice. -/
def tracedWord (c : Chip) (scale : Byte) (v : Voice) : Int :=
  if c.mute.get v = true then 0 else simLevel c v (scaleBy (voiceLevel c v) scale)

/-- The visualisation history that `simOutput` leaves a voice (42_filter.md R196). -/
def simHist (c : Chip) (v : Voice) (x : Int) : Hist :=
  if simRuns c.filter v then (Config.filterXfer (filterArgs c) (c.filter.fs.get v) x).2 else c.filter.fs.get v

/-- The visualisation history of a voice after a traced tick. -/
def tracedHist (c : Chip) (scale : Byte) (v : Voice) : Hist :=
  if c.mute.get v = true then c.filter.fs.get v else simHist c v (scaleBy (voiceLevel c v) scale)

/-- A muted voice adds nothing: routing a level of 0 leaves the sums. -/
theorem routeSignal_zero (flt : Filter) (sm : Sums) (v : Voice) : routeSignal flt 0 sm v = sm := by
  simp [routeSignal_eq]

/-- `simOutput` of a voice reads and writes that voice's history alone (42_filter.md R196). -/
theorem simLevel_withVis {p : PerVoice Hist} {c : Chip} {v : Voice} (h : p.get v = c.filter.fs.get v) (x : Int) :
    simLevel (withVis p c) v x = simLevel c v x := by
  have hfs : (withVis p c).filter.fs.get v = c.filter.fs.get v := h
  have hruns : simRuns (withVis p c).filter v = simRuns c.filter v := rfl
  have hsilenced : isSilencedVoice3 (withVis p c).filter v = isSilencedVoice3 c.filter v := rfl
  have hargs : filterArgs (withVis p c) = filterArgs c := rfl
  have hvol : (withVis p c).vol = c.vol := rfl
  simp only [simLevel, hfs, hruns, hsilenced, hargs, hvol]

theorem simState_withVis {p : PerVoice Hist} {c : Chip} {v : Voice} (h : p.get v = c.filter.fs.get v) (x : Int) :
    simState (withVis p c) v x = withVis (p.set v (simHist c v x)) c := by
  have hfs : (withVis p c).filter.fs.get v = c.filter.fs.get v := h
  unfold simState simHist
  by_cases hruns : simRuns c.filter v = true
  · rw [if_pos hruns, if_pos (show simRuns (withVis p c).filter v = true from hruns), hfs]
    rfl
  · rw [if_neg hruns, if_neg (show ¬ simRuns (withVis p c).filter v = true from hruns), ← h, PerVoice.set_get]

/-- A voice's turn: its level to the sums, and, tracing, its word and its history. -/
theorem renderVoice_withVis (scale : Byte) (traceEn : Bool) {c : Chip} {p : PerVoice Hist} {t : PerVoice Int} {v : Voice}
    (hp : p.get v = c.filter.fs.get v) (ht : t.get v = 0) (sm : Sums) :
    renderVoice scale traceEn ⟨withVis p c, sm, t⟩ v =
      ⟨withVis (if traceEn then p.set v (tracedHist c scale v) else p) c,
        routeSignal c.filter (voiceShare c scale v) sm v,
        if traceEn then t.set v (tracedWord c scale v) else t⟩ := by
  unfold renderVoice tracedHist tracedWord voiceShare
  by_cases hmute : c.mute.get v = true
  · have hp' : p.set v (c.filter.fs.get v) = p := by rw [← hp, PerVoice.set_get]
    have ht' : t.set v 0 = t := by rw [← ht, PerVoice.set_get]
    rw [if_pos (show (withVis p c).mute.get v = true from hmute)]
    simp only [hmute, if_true, routeSignal_zero, hp', ht', ite_self]
  · rw [if_neg (show ¬ (withVis p c).mute.get v = true from hmute)]
    simp only [hmute]
    have hlevel : voiceLevel (withVis p c) v = voiceLevel c v := rfl
    have hroute : routeSignal (withVis p c).filter = routeSignal c.filter := rfl
    cases traceEn with
    | false => simp only [hlevel, hroute, Bool.false_eq_true, if_false]
    | true => simp only [if_true, hlevel, hroute, simState_withVis hp, simLevel_withVis hp, Bool.false_eq_true, if_false]

/-- The three voices: the sums are those of the untraced tick, and only their own histories and words come with tracing. -/
theorem renderVoices_eq (scale : Byte) (traceEn : Bool) (c : Chip) :
    renderVoices scale traceEn c =
      ⟨withVis (if traceEn then byVoice (tracedHist c scale) else c.filter.fs) c, voiceSums c scale,
        if traceEn then byVoice (tracedWord c scale) else perVoice 0⟩ := by
  have hstart : (⟨c, ⟨0, 0⟩, perVoice 0⟩ : Tick) = ⟨withVis c.filter.fs c, ⟨0, 0⟩, perVoice 0⟩ := rfl
  simp only [renderVoices, List.foldl_cons, List.foldl_nil, hstart]
  rw [renderVoice_withVis scale traceEn rfl (get_perVoice 0 .v0)]
  rw [renderVoice_withVis scale traceEn (by cases traceEn <;> rfl) (by cases traceEn <;> rfl)]
  rw [renderVoice_withVis scale traceEn (by cases traceEn <;> rfl) (by cases traceEn <;> rfl)]
  cases traceEn <;> rfl

/-! ### The tick (R291, R292, R305) -/

/-- The sums of a tick, the digi signal among them. -/
def tickSums (c : Chip) (scale : Byte) : Sums := routeDigi c (voiceSums c scale) scale

/-- The level after the filter and the master volume (R297). -/
def mixed (c : Chip) (sm : Sums) : Int := volumeLevel (outputLevel c sm) c.vol

/-- The chip after the filter and the external filter. -/
def settledChip (extEn : Bool) (c : Chip) (sm : Sums) : Chip := extState extEn (outputState c sm) (mixed c sm)

/-- The filter's history after the output stage (42_filter.md R193, R194). -/
def outputFh (c : Chip) (sm : Sums) : Hist :=
  if modesOff c.filter then c.filter.fh else (Config.filterXfer (filterArgs c) c.filter.fh sm.f).2

theorem outputState_eq (c : Chip) (sm : Sums) :
    outputState c sm = { c with filter := { c.filter with fh := outputFh c sm } } := by
  unfold outputState outputFh
  split <;> rfl

/-- The external filter reads nothing that the filter has moved. -/
theorem extLevel_outputState (extEn : Bool) (c : Chip) (sm : Sums) (m : Int) :
    extLevel extEn (outputState c sm) m = extLevel extEn c m := by
  rw [outputState_eq]
  rfl

/-- The settled chip: `FH` and `EXT_Y` have moved. -/
theorem settledChip_eq (extEn : Bool) (c : Chip) (sm : Sums) :
    settledChip extEn c sm =
      { c with filter :=
        { c.filter with
          fh := outputFh c sm, extY := if extEn then extNext c (mixed c sm) else c.filter.extY } } := by
  rw [settledChip, outputState_eq]
  cases extEn <;> rfl

theorem settledChip_withVis (extEn : Bool) (p : PerVoice Hist) (c : Chip) (sm : Sums) :
    settledChip extEn (withVis p c) sm = withVis p (settledChip extEn c sm) := by
  rw [settledChip_eq, settledChip_eq]
  rfl

/-- One tick, the visualisation histories kept apart. -/
theorem synthTick_eq (extEn traceEn : Bool) (scale : Byte) (reads : Nat) (c : Chip) :
    synthTick extEn traceEn scale reads c =
      { chip := withVis (if traceEn then byVoice (tracedHist c scale) else c.filter.fs)
          (psidAdvance (settledChip extEn { c with life := .active } (tickSums c scale)))
        y := clip (extLevel extEn c (mixed c (tickSums c scale)) + scaleBy (psidLevel reads c) scale)
        t := if traceEn then byVoice (tracedWord c scale) else perVoice 0
        digi := clip (volumeLevel (digiScaled c.det scale) c.vol)
        reads := psidReads reads c } := by
  generalize hp : (if traceEn then byVoice (tracedHist c scale) else c.filter.fs) = p
  generalize ht : (if traceEn then byVoice (tracedWord c scale) else perVoice 0) = t
  have hvoices : renderVoices scale traceEn { c with life := .active } =
      ⟨withVis p { c with life := .active }, voiceSums c scale, t⟩ := by
    rw [renderVoices_eq, ← hp, ← ht]
    rfl
  have hsums : routeDigi (withVis p { c with life := .active }) (voiceSums c scale) scale = tickSums c scale := rfl
  have hsettled := settledChip_eq extEn (withVis p { c with life := .active }) (tickSums c scale)
  obtain ⟨_, hlevel, hreads⟩ := psidTick_congr (c := c) (d := settledChip extEn (withVis p { c with life := .active })
    (tickSums c scale)) (by rw [hsettled]; rfl) (by rw [hsettled]; rfl) reads
  rw [← psidAdvance_withVis, ← settledChip_withVis, ← hlevel, ← hreads]
  simp only [synthTick, hvoices, hsums, extLevel_outputState]
  rfl

/-- SYNTH_STRIPPED's tick: the voices alone. -/
theorem strippedTick_eq (extEn : Bool) (scale : Byte) (c : Chip) :
    strippedTick extEn scale c =
      (settledChip extEn { c with life := .active } (voiceSums c scale),
        clip (extLevel extEn c (mixed c (voiceSums c scale)))) := by
  have hvoices := renderVoices_eq scale false { c with life := .active }
  simp only [strippedTick, hvoices, extLevel_outputState]
  rfl

/-! ### The sums, spelled out (42_filter.md R191, 43_digi_detector.md R260) -/

/-- The part of a signal at voice `v` that the filtered sum takes. -/
def toFiltered (flt : Filter) (v : Voice) (x : Int) : Int := if flt.filt.get v = true then x else 0

/-- The part of a signal at voice `v` that the unfiltered sum takes: none of a disconnected voice 3. -/
def toUnfiltered (flt : Filter) (v : Voice) (x : Int) : Int :=
  if flt.filt.get v = true ∨ (v = .v2 ∧ flt.v3off = true) then 0 else x

theorem routeSignal_split (flt : Filter) (x : Int) (sm : Sums) (v : Voice) :
    routeSignal flt x sm v = ⟨sm.f + toFiltered flt v x, sm.u + toUnfiltered flt v x⟩ :=
  routeSignal_eq flt x sm v

theorem voiceSums_eq (c : Chip) (scale : Byte) :
    voiceSums c scale =
      ⟨toFiltered c.filter .v0 (voiceShare c scale .v0) + toFiltered c.filter .v1 (voiceShare c scale .v1)
          + toFiltered c.filter .v2 (voiceShare c scale .v2),
        toUnfiltered c.filter .v0 (voiceShare c scale .v0) + toUnfiltered c.filter .v1 (voiceShare c scale .v1)
          + toUnfiltered c.filter .v2 (voiceShare c scale .v2)⟩ := by
  simp only [voiceSums, routeSignal_split, Int.zero_add]

/-- What the digi adds to the two sums. -/
def digiShare (c : Chip) (scale : Byte) : Int × Int :=
  if c.det.en = false then (0, 0)
  else match c.det.src with
    | .unused => (0, 0)
    | .volume => (0, digiScaled c.det scale)
    | .voice v => (toFiltered c.filter v (digiScaled c.det scale), toUnfiltered c.filter v (digiScaled c.det scale))

theorem routeDigi_eq (c : Chip) (sm : Sums) (scale : Byte) :
    routeDigi c sm scale = ⟨sm.f + (digiShare c scale).1, sm.u + (digiShare c scale).2⟩ := by
  unfold digiShare
  cases hen : c.det.en with
  | false => simp [routeDigi_of_off (.inl hen)]
  | true =>
    cases hsrc : c.det.src with
    | unused => simp [routeDigi_of_off (.inr hsrc)]
    | volume => simp [routeDigi_of_volume hen hsrc]
    | voice v => simp [routeDigi_of_voice hen hsrc, routeSignal_split]

end Sys2Proof.Machine

/-! The sample of one tick, spelled out (44_render.md R291 to R300). -/

namespace Sys2Proof.Machine

open Sys2Proof.Laws

theorem modesOff_eq_false_iff (f : Filter) : modesOff f = false ↔ f.lp = true ∨ f.bp = true ∨ f.hp = true := by
  cases hlp : f.lp <;> cases hbp : f.bp <;> cases hhp : f.hp <;> simp [modesOff, hlp, hbp, hhp]

theorem outputLevel_of_modesOn {c : Chip} (h : modesOff c.filter = false) (sm : Sums) :
    outputLevel c sm = (Config.filterXfer (filterArgs c) c.filter.fh sm.f).1 + sm.u :=
  if_neg (Bool.eq_false_iff.mp h)

theorem synthTick_fh (extEn traceEn : Bool) (scale : Byte) (reads : Nat) (c : Chip) :
    (synthTick extEn traceEn scale reads c).chip.filter.fh = outputFh c (tickSums c scale) := by
  simp only [synthTick_eq, withVis, psidAdvance_filter, settledChip_eq]
  rfl

theorem synthTick_extY (extEn traceEn : Bool) (scale : Byte) (reads : Nat) (c : Chip) :
    (synthTick extEn traceEn scale reads c).chip.filter.extY =
      if extEn then extNext c (mixed c (tickSums c scale)) else c.filter.extY := by
  simp only [synthTick_eq, withVis, psidAdvance_filter, settledChip_eq]
  rfl

theorem synthTick_fs (extEn traceEn : Bool) (scale : Byte) (reads : Nat) (c : Chip) :
    (synthTick extEn traceEn scale reads c).chip.filter.fs =
      if traceEn then byVoice (tracedHist c scale) else c.filter.fs := by
  rw [synthTick_eq]
  rfl

end Sys2Proof.Machine

namespace Sys2Proof.Proofs

open Sys2Proof.Machine Sys2Proof.Laws

/-- Settles O60: the tick's sums are those of the voices and of the digi, and from there every stage is its own rule. -/
theorem sampleFollowsThePipeline : Obligations.SampleFollowsThePipeline := by
  intro c extEn traceEn scale reads flt share toF toU digi digiSums f u modesOn xfer o m x q
  have hshare : ∀ v, voiceShare c scale v = share v := fun _ => rfl
  have hdigi : digiShare c scale = digiSums := by
    unfold digiShare
    simp only [digiSums]
    cases hen : c.det.en with
    | false => rfl
    | true =>
      have hon : c.det.src ≠ .unused → digiScaled c.det scale = digi := fun h => digiScaled_of_on hen h scale
      cases hsrc : c.det.src with
      | unused => rfl
      | volume => simp [hon (by simp [hsrc])]
      | voice v => simp only [Bool.true_eq_false, if_false, hon (by simp [hsrc])]; rfl
  have hsums : tickSums c scale = ⟨f, u⟩ := by
    rw [tickSums, routeDigi_eq, voiceSums_eq, hdigi]
    simp only [hshare]
    rfl
  have hmodes : modesOff c.filter = false ↔ modesOn := modesOff_eq_false_iff c.filter
  have hlevel : outputLevel c ⟨f, u⟩ = o := by
    by_cases h : modesOn
    · simp only [o, if_pos h]
      exact outputLevel_of_modesOn (hmodes.mpr h) _
    · simp only [o, if_neg h]
      exact outputLevel_of_modesOff (Bool.not_eq_false _ ▸ mt hmodes.mp h) _
  have hmixed : mixed c (tickSums c scale) = m := by
    rw [mixed, hsums, hlevel]
    rfl
  have hx : extLevel extEn c m = x := by cases extEn <;> rfl
  refine ⟨?y, ?fh, ?extY, synthTick_det .., ?reads⟩
  case y =>
    simp only [q, synthTick_eq, hmixed, hx]
    rfl
  case fh =>
    rw [synthTick_fh, hsums, outputFh]
    by_cases h : modesOn
    · rw [if_pos h, if_neg (Bool.eq_false_iff.mp (hmodes.mpr h))]
      rfl
    · rw [if_neg h, if_pos (Bool.not_eq_false _ ▸ mt hmodes.mp h)]
  case extY =>
    rw [synthTick_extY, hmixed]
    cases extEn <;> rfl
  case reads =>
    simp only [q, synthTick_eq]

/-- Settles O21: with the modes off the filter returns the plain sum, in which each voice is once or, disconnected, not at
all. -/
theorem sampleIsTheSumOfTheVoices : Obligations.SampleIsTheSumOfTheVoices := by
  intro c traceEn scale reads hmodes hdigi hplayer level
  have hboth : ∀ v, toFiltered c.filter v (voiceShare c scale v) + toUnfiltered c.filter v (voiceShare c scale v)
      = level v := by
    intro v
    unfold toFiltered toUnfiltered voiceShare
    by_cases hmute : c.mute.get v = true
    · simp [level, hmute]
    · have hheard : ¬ (v = .v2 ∧ c.filter.filt.v2 = false ∧ c.filter.v3off = true) →
          level v = scaleBy (voiceLevel c v) scale := fun h => if_neg (not_or.mpr ⟨hmute, h⟩)
      by_cases hrouted : c.filter.filt.get v = true
      · rw [if_neg hmute, if_pos hrouted, if_pos (Or.inl hrouted), Int.add_zero, hheard]
        rintro ⟨rfl, hoff, _⟩
        exact absurd (hrouted.symm.trans hoff) (by decide)
      · by_cases hsilenced : v = .v2 ∧ c.filter.v3off = true
        · obtain ⟨rfl, hv3⟩ := hsilenced
          have hoff : c.filter.filt.v2 = false := Bool.eq_false_iff.mpr hrouted
          simp [level, hv3, hoff, PerVoice.get]
        · rw [if_neg hmute, if_neg hrouted, if_neg (not_or.mpr ⟨hrouted, hsilenced⟩), Int.zero_add,
            hheard fun h => hsilenced ⟨h.1, h.2.2⟩]
  have hsum : outputLevel c (tickSums c scale) = level .v0 + level .v1 + level .v2 := by
    have hroute : routeDigi c (voiceSums c scale) scale = voiceSums c scale := if_pos hdigi
    rw [outputLevel_of_modesOff hmodes, tickSums, hroute, voiceSums_eq, ← hboth .v0, ← hboth .v1, ← hboth .v2]
    dsimp only
    omega
  have hsilent : psidLevel reads c = 0 := by simp [psidLevel, psidSounds, hplayer]
  have hext : ∀ z, extLevel false c z = z := fun _ => rfl
  have hzero : scaleBy 0 scale = 0 := by simp [scaleBy, tdiv]
  simp only [synthTick_eq, hext, mixed, hsum, hsilent, hzero, Int.add_zero]
  rfl

end Sys2Proof.Proofs

/-! What SYNTH and SYNTH_STRIPPED store (44_render.md R302, R303, 20_memory.md R72 to R75). -/

namespace Sys2Proof.Machine

open Sys2Proof.Laws

/-- The word a PCM write leaves. -/
theorem readSample_pcmWrite (offset : BitVec 32) (chan : BitVec 1) (clearFlag : Bool) {y : Int} {m : Memory}
    (hm : Memory.wf m = true) (hy : -32767 ≤ y ∧ y ≤ 32767) :
    readSample (pcmWrite offset chan clearFlag y m) (pcmIndex offset chan) =
      if clearFlag then y else clip (readSample m (pcmIndex offset chan) + y) := by
  have hclip := clip_bounds (readSample m (pcmIndex offset chan) + y)
  cases clearFlag with
  | true =>
    simp only [pcmWrite, if_true]
    exact readSample_writeSample_same _ _ _ hm (by omega)
  | false =>
    simp only [pcmWrite, Bool.false_eq_true, if_false]
    exact readSample_writeSample_same _ _ _ hm (by omega)

theorem readSample_traceWrite (offset : BitVec 32) {t : PerVoice Int} {digi : Int} {tr : Traces}
    (ht : ∀ v, -32767 ≤ t.get v ∧ t.get v ≤ 32767) (hd : -32767 ≤ digi ∧ digi ≤ 32767) :
    (∀ v, Memory.wf (tr.voice.get v) = true →
        readSample ((traceWrite offset t digi tr).voice.get v) offset.toNat = t.get v)
      ∧ (Memory.wf tr.digi = true → readSample (traceWrite offset t digi tr).digi offset.toNat = digi) := by
  refine ⟨fun v hv => ?_, fun h => readSample_writeSample_same _ _ _ h (by omega)⟩
  have hbound : -32768 ≤ t.get v ∧ t.get v ≤ 32767 := by
    have hv := ht v
    omega
  cases v <;> exact readSample_writeSample_same _ _ _ hv hbound

theorem readByte_traceWrite_ne (offset : BitVec 32) (t : PerVoice Int) (digi : Int) (tr : Traces) {a : Nat}
    (h : a ≠ 2 * offset.toNat ∧ a ≠ 2 * offset.toNat + 1) :
    (∀ v, readByte ((traceWrite offset t digi tr).voice.get v) a = readByte (tr.voice.get v) a)
      ∧ readByte (traceWrite offset t digi tr).digi a = readByte tr.digi a :=
  ⟨fun v => by cases v <;> exact readByte_writeWord_ne _ _ _ _ h, readByte_writeWord_ne _ _ _ _ h⟩

/-- SYNTH of a chip that was reset stores its tick. -/
theorem exec_synth_of_selects {c : BitVec 8} {s : State} {i : Fin 10} (scale : Byte) (clearFlag traceEn : Bool)
    (offset : BitVec 32) (h : s.selects c i) :
    exec (.synth c scale clearFlag traceEn offset) s =
      .next (storeSample i clearFlag traceEn offset (synthTick s.registry.extEn traceEn scale s.ramReads (s.chip i)) s) := by
  change execSynth c scale clearFlag traceEn offset s = _
  simp only [execSynth, h.1]
  exact onInitialised_of_life i s _ h.2

/-- SYNTH_STRIPPED of a chip that was reset stores its tick. -/
theorem exec_synthStripped_of_selects {c : BitVec 8} {s : State} {i : Fin 10} (scale : Byte) (clearFlag : Bool)
    (offset : BitVec 32) (h : s.selects c i) :
    exec (.synthStripped c scale clearFlag offset) s =
      let q := strippedTick s.registry.extEn scale (s.chip i)
      .next { s.setChip i q.1 with pcm := pcmWrite offset q.1.chan clearFlag q.2 s.pcm } := by
  change execSynthStripped c scale clearFlag offset s = _
  simp only [execSynthStripped, h.1]
  exact onInitialised_of_life i s _ h.2

theorem synthTick_chan (extEn traceEn : Bool) (scale : Byte) (reads : Nat) (c : Chip) :
    (synthTick extEn traceEn scale reads c).chip.chan = c.chan :=
  (sameButRendering_chan (synthTick_frame extEn traceEn scale reads c) :)

theorem chip_storeSample_same (i : Fin 10) (clearFlag traceEn : Bool) (offset : BitVec 32) (q : Sample) (s : State) :
    (storeSample i clearFlag traceEn offset q s).chip i = q.chip :=
  (chip_setChip_same s i q.chip :)

theorem chip_storeSample_ne {i j : Fin 10} (h : j ≠ i) (clearFlag traceEn : Bool) (offset : BitVec 32) (q : Sample)
    (s : State) : (storeSample i clearFlag traceEn offset q s).chip j = s.chip j :=
  (chip_setChip_ne s i j q.chip h :)

/-- A store leaves every trace byte outside the frame, and without tracing every one. -/
theorem tracesSameBut_storeSample (i : Fin 10) (clearFlag traceEn : Bool) (offset : BitVec 32) (q : Sample) (s : State) :
    tracesSameBut (if traceEn then some offset.toNat else none) s (storeSample i clearFlag traceEn offset q s) := by
  intro a ha
  cases traceEn with
  | false => exact ⟨fun _ => rfl, rfl⟩
  | true => exact readByte_traceWrite_ne offset _ _ _ (ha _ rfl)

/-! ### The trace words, spelled out (42_filter.md R196) -/

theorem simRuns_iff (f : Filter) (v : Voice) :
    simRuns f v = true ↔ f.filt.get v = true ∧ (f.lp = true ∨ f.bp = true ∨ f.hp = true) := by
  rw [simRuns, Bool.and_eq_true, ← modesOff_eq_false_iff]
  simp

/-- The trace word and the new history of a voice that is not muted. -/
theorem traced_of_unmuted {c : Chip} {v : Voice} (h : c.mute.get v = false) (scale : Byte) :
    tracedWord c scale v = simLevel c v (scaleBy (voiceLevel c v) scale)
      ∧ tracedHist c scale v = simHist c v (scaleBy (voiceLevel c v) scale) := by
  simp [tracedWord, tracedHist, h]

theorem sim_of_runs {c : Chip} {v : Voice} (h : simRuns c.filter v = true) (x : Int) :
    simLevel c v x = clip (volumeLevel (Config.filterXfer (filterArgs c) (c.filter.fs.get v) x).1 c.vol)
      ∧ simHist c v x = (Config.filterXfer (filterArgs c) (c.filter.fs.get v) x).2 := by
  simp [simLevel, simHist, h]

theorem sim_of_not_runs {c : Chip} {v : Voice} (h : ¬ simRuns c.filter v = true) (x : Int) :
    simLevel c v x = (if v = .v2 ∧ c.filter.filt.v2 = false ∧ c.filter.v3off = true then 0
        else clip (volumeLevel x c.vol))
      ∧ simHist c v x = c.filter.fs.get v := by
  refine ⟨?_, if_neg h⟩
  have hzero : clip (volumeLevel 0 c.vol) = 0 := by
    simp [volumeLevel, tdiv, clip, clipBound]
  simp only [simLevel, if_neg h, isSilencedVoice3_iff]
  split
  · exact hzero
  · rfl

/-- A digi that is off has level 0, another one the scaled level of its latch (R260). -/
theorem digiScaled_eq (d : Detector) (scale : Byte) :
    digiScaled d scale =
      if d.en = false ∨ d.src = .unused then 0
      else Int.tdiv (((d.sample.toNat : Int) * 0x101 - 0x8000) * Config.digiGain * scale.toNat) 255 := by
  by_cases h : d.en = false ∨ d.src = .unused
  · have hoff : digiOff d = true := by rcases h with h | h <;> simp [digiOff, h]
    rw [if_pos h, digiScaled, if_pos hoff]
  · rw [if_neg h]
    rw [not_or, Bool.not_eq_false] at h
    exact digiScaled_of_on h.1 h.2 scale

end Sys2Proof.Machine

namespace Sys2Proof.Proofs

open Sys2Proof.Machine Sys2Proof.Laws

/-- Settles O20: the store is one word of the PCM buffer and, tracing, one word of each trace buffer; the words come from
`simOutput` of each voice. -/
theorem synthStoresOneSample : Obligations.SynthStoresOneSample := by
  intro c scale clearFlag traceEn offset s i h k q idx level digi filtered sim word
  have hchan : q.chip.chan = k.chan := synthTick_chan ..
  have hy : -32767 ≤ q.y ∧ q.y ≤ 32767 := clip_bounds _
  refine ⟨_, exec_synth_of_selects scale clearFlag traceEn offset h, chip_storeSample_same .., synthTick_frame ..,
    fun htrace => ?untraced, fun j hj => chip_storeSample_ne hj .., ⟨rfl, rfl, rfl⟩, rfl, hy.1, hy.2, fun hwf => ?pcm,
    fun a ha => ?frame, tracesSameBut_storeSample i clearFlag traceEn offset _ s, fun htrace => ?traced⟩
  case untraced =>
    simp only [q, synthTick_fs, htrace]
    rfl
  case pcm =>
    change readSample (pcmWrite offset q.chip.chan clearFlag q.y s.pcm) idx = _
    rw [hchan]
    exact readSample_pcmWrite offset k.chan clearFlag hwf hy
  case frame =>
    have hne := ha idx rfl
    simp only [idx, ← hchan] at hne
    exact readByte_pcmWrite_ne _ _ _ _ _ _ hne
  case traced =>
    subst htrace
    have ht : q.t = byVoice (tracedWord k scale) := by simp only [q, synthTick_eq, if_true]
    have hfs : q.chip.filter.fs = byVoice (tracedHist k scale) := by simp only [q, synthTick_fs, if_true]
    have hdigi : q.digi = word digi := by
      simp only [q, synthTick_eq, digiScaled_eq]
      rfl
    have htbound : ∀ v, -32767 ≤ q.t.get v ∧ q.t.get v ≤ 32767 := by
      intro v
      obtain ⟨x, hx⟩ := synthTick_t s.registry.extEn true scale s.ramReads k v
      rw [show q.t.get v = clip x from hx]
      exact clip_bounds x
    have hdbound : -32767 ≤ q.digi ∧ q.digi ≤ 32767 := clip_bounds _
    obtain ⟨hvoices, hdigiWord⟩ := readSample_traceWrite offset (tr := s.traces) htbound hdbound
    refine ⟨hvoices, hdigiWord, hdigi, fun v => ⟨fun hmute => ?muted, fun hmute hfilt => ?routed, fun hmute hfilt => ?plain⟩⟩
    all_goals rw [ht, hfs, get_byVoice, get_byVoice]
    case muted =>
      simp [tracedWord, tracedHist, hmute]
    case routed =>
      obtain ⟨hword, hhist⟩ := traced_of_unmuted hmute scale
      obtain ⟨hsim, hnew⟩ := sim_of_runs ((simRuns_iff k.filter v).mpr hfilt) (scaleBy (voiceLevel k v) scale)
      rw [hword, hhist, hsim, hnew]
      exact ⟨rfl, rfl⟩
    case plain =>
      obtain ⟨hword, hhist⟩ := traced_of_unmuted hmute scale
      obtain ⟨hsim, hnew⟩ := sim_of_not_runs (mt (simRuns_iff k.filter v).mp hfilt) (scaleBy (voiceLevel k v) scale)
      rw [hword, hhist, hsim, hnew]
      exact ⟨rfl, rfl⟩

end Sys2Proof.Proofs

/-! SYNTH_STRIPPED beside SYNTH (44_render.md R305). -/

namespace Sys2Proof.Machine

open Sys2Proof.Laws

/-- A tick without a digi, a running player and tracing is the stripped tick (R305). -/
theorem synthTick_of_silent (extEn : Bool) (scale : Byte) (reads : Nat) {c : Chip} (hdigi : digiOff c.det = true)
    (hplayer : psidRuns c = false) :
    (synthTick extEn false scale reads c).chip = (strippedTick extEn scale c).1
      ∧ (synthTick extEn false scale reads c).y = (strippedTick extEn scale c).2
      ∧ (synthTick extEn false scale reads c).reads = reads := by
  have hsums : tickSums c scale = voiceSums c scale := if_pos hdigi
  have hsounds : psidSounds c = false := by simp [psidSounds, hplayer]
  have hlevel : psidLevel reads c = 0 := by simp [psidLevel, hsounds]
  have hzero : scaleBy 0 scale = 0 := by simp [scaleBy, tdiv]
  have hsettled := settledChip_eq extEn { c with life := .active } (voiceSums c scale)
  have hstill : psidRuns (settledChip extEn { c with life := .active } (voiceSums c scale)) = false := by
    rw [hsettled]
    exact hplayer
  simp only [synthTick_eq, strippedTick_eq, hsums, hlevel, hzero, Int.add_zero, psidAdvance_of_not_runs hstill, psidReads,
    hsounds, Bool.false_eq_true, if_false, and_self, and_true]
  refine withVis_same ?_
  rw [hsettled]

/-- The stripped tick looks at nothing of the detector, and leaves it (R305). -/
theorem strippedTick_withDet (extEn : Bool) (scale : Byte) (c : Chip) (d : Detector) :
    strippedTick extEn scale { c with det := d } =
      ({ (strippedTick extEn scale c).1 with det := d }, (strippedTick extEn scale c).2) := by
  simp only [strippedTick_eq, settledChip_eq]
  rfl

/-- What SYNTH without tracing stores where there is nothing to skip. -/
theorem storeSample_of_silent (i : Fin 10) (clearFlag : Bool) (offset : BitVec 32) {s : State} (scale : Byte)
    (hdigi : digiOff (s.chip i).det = true) (hplayer : psidRuns (s.chip i) = false) :
    let q := strippedTick s.registry.extEn scale (s.chip i)
    storeSample i clearFlag false offset (synthTick s.registry.extEn false scale s.ramReads (s.chip i)) s
      = { s.setChip i q.1 with pcm := pcmWrite offset q.1.chan clearFlag q.2 s.pcm } := by
  obtain ⟨hchip, hy, hreads⟩ := synthTick_of_silent s.registry.extEn scale s.ramReads hdigi hplayer
  simp only [storeSample, hchip, hy, hreads, Bool.false_eq_true, if_false]
  rfl

end Sys2Proof.Machine

namespace Sys2Proof.Proofs

open Sys2Proof.Machine Sys2Proof.Laws

/-- Settles O22: a disabled detector leaves the tick nothing to skip, and the stripped tick does not look at the detector. -/
theorem strippedSkipsDigiAndTraces : Obligations.StrippedSkipsDigiAndTraces := by
  intro c scale clearFlag offset s i h k q idx silent
  have hchip : q.1 = { k with
      life := .active, filter := { k.filter with fh := q.1.filter.fh, extY := q.1.filter.extY } } := by
    simp only [q, strippedTick_eq, settledChip_eq]
  have hchan : q.1.chan = k.chan := by rw [hchip]
  have hy : -32767 ≤ q.2 ∧ q.2 ≤ 32767 := clip_bounds _
  have hk : strippedTick s.registry.extEn scale { k with det := { k.det with en := false } } =
      ({ q.1 with det := { k.det with en := false } }, q.2) := strippedTick_withDet ..
  have hoff : digiOff { k.det with en := false } = true := rfl
  have hstill : psidRuns { k with det := { k.det with en := false } } = false := by simp [psidRuns]
  refine ⟨_, exec_synthStripped_of_selects scale clearFlag offset h, (chip_setChip_same s i q.1).trans hchip,
    fun j hj => chip_setChip_ne s i j q.1 hj, ⟨rfl, rfl, rfl⟩, rfl, hy.1, hy.2, fun hwf => ?pcm, fun a ha => ?frame,
    fun _ _ => ⟨fun _ => rfl, rfl⟩, fun reads => ?sample, ?silent, fun hdigi hplayer => ?plain⟩
  case pcm =>
    change readSample (pcmWrite offset q.1.chan clearFlag q.2 s.pcm) idx = _
    rw [hchan]
    exact readSample_pcmWrite offset k.chan clearFlag hwf hy
  case frame =>
    have hne := ha idx rfl
    simp only [idx, ← hchan] at hne
    exact readByte_pcmWrite_ne _ _ _ _ _ _ hne
  case sample =>
    rw [(synthTick_of_silent s.registry.extEn scale reads hoff hstill).2.1, hk]
  case silent =>
    have hsilent : silent.chip i = { k with det := { k.det with en := false } } := chip_setChip_same ..
    have hselects : silent.selects c i := ⟨h.1, by rw [hsilent]; exact h.2⟩
    refine ⟨_, exec_synth_of_selects scale clearFlag false offset hselects, ?_⟩
    rw [storeSample_of_silent i clearFlag offset scale (by rw [hsilent]; exact hoff) (by rw [hsilent]; exact hstill), hsilent]
    have hdet : { q.1 with det := k.det } = q.1 := by rw [hchip]
    have hextEn : silent.registry.extEn = s.registry.extEn := rfl
    have hagain : ∀ (d : Chip) (m : Memory), ({ silent.setChip i d with pcm := m } : State).chip i = d :=
      fun d _ => chip_setChip_same silent i d
    simp only [hextEn, hk, hagain, hdet]
    simp only [silent, State.setChip, Vector.set_set]
    rfl
  case plain =>
    rw [exec_synth_of_selects scale clearFlag false offset h, storeSample_of_silent i clearFlag offset scale hdigi hplayer]

end Sys2Proof.Proofs

/-! The render loop of SYNTHALL (45_registry.md R343). -/

namespace Sys2Proof.Machine

open Sys2Proof.Laws

/-- SYNTH of the selector that is a chip's number is SYNTH of that chip. -/
theorem exec_synth_ofNat (i : Fin 10) (scale : Byte) (clearFlag traceEn : Bool) (offset : BitVec 32) (s : State) :
    exec (.synth (BitVec.ofNat 8 i.val) scale clearFlag traceEn offset) s
      = synthAt i scale clearFlag traceEn offset s := by
  change execSynth (BitVec.ofNat 8 i.val) scale clearFlag traceEn offset s = _
  simp only [execSynth, chipIndex_ofNat]

theorem synthAt_completes {i : Fin 10} {s : State} (scale : Byte) (clearFlag traceEn : Bool) (offset : BitVec 32)
    (h : (s.chip i).life ≠ .uninit) : ∃ t, synthAt i scale clearFlag traceEn offset s = .next t :=
  ⟨_, onInitialised_of_life i s _ h⟩

/-- What the turns already taken of SYNTHALL, from `s` to `u`, have kept: the channels and the registry, so that the turns
to come have the scale and the clear flag they had in `s`; and all that is not theirs to write. -/
structure SynthSoFar (traceEn : Bool) (offset : BitVec 32) (s u : State) : Prop where
  chan : ∀ j, (u.chip j).chan = (s.chip j).chan
  life : ∀ j, (s.chip j).life ≠ .uninit → (u.chip j).life ≠ .uninit
  unused : ∀ j, j ∉ activeChips s → u.chip j = s.chip j
  outside : sameOutsideChips s u
  traces : tracesSameBut (if traceEn then some offset.toNat else none) s u
  pcm : ∀ a, (∀ i ∈ activeChips s, a ≠ 2 * pcmIndex offset (s.chip i).chan
    ∧ a ≠ 2 * pcmIndex offset (s.chip i).chan + 1) → readByte u.pcm a = readByte s.pcm a

theorem synthSoFar_refl (traceEn : Bool) (offset : BitVec 32) (s : State) : SynthSoFar traceEn offset s s where
  chan _ := rfl
  life _ h := h
  unused _ _ := rfl
  outside := ⟨rfl, rfl, rfl⟩
  traces _ _ := ⟨fun _ => rfl, rfl⟩
  pcm _ _ := rfl

/-- SYNTH of one more chip in use keeps what the turns before it kept, whatever its scale and clear flag, where it traces
only if SYNTHALL does. -/
theorem synthAt_synthSoFar {traceEn tracing : Bool} {offset : BitVec 32} {s u t : State} {i : Fin 10} {scale : Byte}
    {clearFlag : Bool} (htrace : tracing = true → traceEn = true) (hi : i ∈ activeChips s)
    (hu : SynthSoFar traceEn offset s u) (h : synthAt i scale clearFlag tracing offset u = .next t) :
    SynthSoFar traceEn offset s t := by
  simp only [synthAt, onInitialised_eq_next, Host.Outcome.next.injEq] at h
  obtain ⟨_, rfl⟩ := h
  generalize hq : synthTick u.registry.extEn tracing scale u.ramReads (u.chip i) = q
  have hchan : q.chip.chan = (u.chip i).chan := hq ▸ synthTick_chan ..
  have hactive : q.chip.life = .active := hq ▸ synthTick_life ..
  refine ⟨fun j => ?chan, fun j hj => ?life, fun j hj => ?unused, hu.outside, fun a ha => ?traces, fun a ha => ?pcm⟩
  case chan =>
    by_cases hj : j = i
    · rw [hj, chip_storeSample_same, hchan, hu.chan]
    · rw [chip_storeSample_ne hj, hu.chan]
  case life =>
    by_cases hji : j = i
    · simp [hji, chip_storeSample_same, hactive]
    · rw [chip_storeSample_ne hji]
      exact hu.life j hj
  case unused =>
    have hne : j ≠ i := fun e => hj (e ▸ hi)
    rw [chip_storeSample_ne hne, hu.unused j hj]
  case traces =>
    obtain ⟨hvoice, hdigi⟩ := hu.traces a ha
    obtain ⟨hvoice', hdigi'⟩ := tracesSameBut_storeSample i clearFlag tracing offset q u a fun w hw => by
      cases tracing with
      | false => cases hw
      | true => exact ha w (by rw [htrace rfl]; exact hw)
    exact ⟨fun v => (hvoice' v).trans (hvoice v), hdigi'.trans hdigi⟩
  case pcm =>
    have hword := ha i hi
    rw [← hu.chan i, ← hchan] at hword
    exact (readByte_pcmWrite_ne _ _ _ _ _ _ hword).trans (hu.pcm a ha)

/-- A turn of a chip in use that was reset completes, and keeps what the turns before it kept. -/
theorem synthAllTurn_completes {traceEn : Bool} {offset : BitVec 32} {s u : State} {i : Fin 10} (hi : i ∈ activeChips s)
    (hlife : (s.chip i).life ≠ .uninit) (hu : SynthSoFar traceEn offset s u) :
    ∃ t, synthAllTurn traceEn offset i u = .next t ∧ SynthSoFar traceEn offset s t := by
  obtain ⟨t, ht⟩ := synthAt_completes (channelScale u i) (firstOnChannel u i) (traceEn && decide (i = 0)) offset
    (hu.life i hlife)
  exact ⟨t, ht, synthAt_synthSoFar (fun h => ((Bool.and_eq_true _ _).mp h).1) hi hu ht⟩

/-- SYNTH with the scale and the clear flag of the state before the loop is the chip's turn in the loop. -/
theorem exec_synth_eq_turn {traceEn : Bool} {offset : BitVec 32} {s u : State} (hu : SynthSoFar traceEn offset s u)
    (i : Fin 10) :
    exec (.synth (BitVec.ofNat 8 i.val) (channelScale s i) (firstOnChannel s i) (traceEn && decide (i = 0)) offset) u
      = synthAllTurn traceEn offset i u := by
  rw [exec_synth_ofNat, synthAllTurn, channelScale_congr hu.outside.1 hu.chan, firstOnChannel_congr hu.chan]

/-- One chip alone is rendered at full scale, into a cleared word. -/
theorem turn_of_one_chip {s : State} (h : s.registry.nUsed = 1) :
    activeChips s = [0] ∧ channelScale s 0 = 255 ∧ firstOnChannel s 0 = true := by
  have hactive : activeChips s = [0] := by
    rw [activeChips, h]
    decide
  have hcount : channelCount s 0 = 1 := by simp [channelCount, hactive, sameChannel]
  refine ⟨hactive, ?_, rfl⟩
  rw [channelScale, hcount]
  rfl

end Sys2Proof.Machine

namespace Sys2Proof.Proofs

open Sys2Proof.Machine Sys2Proof.Laws

/-- Settles O23: no turn moves a channel or the registry, so every turn has the scale and the clear flag it had before the
loop, and is the SYNTH the statement lists. -/
theorem synthAllRendersEveryChip : Obligations.SynthAllRendersEveryChip := by
  intro traceEn offset s hs onChannel turns
  have hlife := (activeInitialised_iff s).mp hs
  have hcompletes : ∀ i ∈ activeChips s, ∀ u, SynthSoFar traceEn offset s u →
      ∃ t, synthAllTurn traceEn offset i u = .next t ∧ SynthSoFar traceEn offset s t :=
    fun i hi _ hu => synthAllTurn_completes hi (hlife i hi) hu
  have hturns : turns = (activeChips s).map fun i =>
      .synth (BitVec.ofNat 8 i.val) (channelScale s i) (firstOnChannel s i) (traceEn && decide (i = 0)) offset := by
    simp only [firstOnChannel_eq]
    rfl
  have hloop : execAll turns s = forEach (synthAllTurn traceEn offset) (activeChips s) s := by
    rw [hturns]
    exact execAll_map_eq_forEach _ (fun i _ _ hu => exec_synth_eq_turn hu i) hcompletes s
      (synthSoFar_refl traceEn offset s)
  obtain ⟨t, ht, hkept⟩ := forEach_completes (activeChips s) hcompletes s (synthSoFar_refl traceEn offset s)
  refine ⟨t, ht, hloop.trans ht, fun hone => ?_, fun j hj => hkept.unused j fun hmem => ?_, hkept.outside, hkept.pcm,
    hkept.traces⟩
  · obtain ⟨hactive, hscale, hfirst⟩ := turn_of_one_chip hone
    have hturn := exec_synth_eq_turn (synthSoFar_refl traceEn offset s) 0
    rw [hscale, hfirst, decide_eq_true rfl, Bool.and_true] at hturn
    rw [hactive, forEach, andThen_eq_next] at ht
    obtain ⟨u, hu, hrest⟩ := ht
    cases hrest
    exact hturn.trans hu
  · exact Nat.not_lt.mpr hj ((mem_activeChips s j).mp hmem)

end Sys2Proof.Proofs

/-! The visualisation histories never reach the detector, the registers or the sample (10_state.md R40). -/

namespace Sys2Proof.Machine

open Sys2Proof.Laws

@[simp] theorem withVis_det (p : PerVoice Hist) (c : Chip) : (withVis p c).det = c.det := rfl
@[simp] theorem setFm_withVis (v : Voice) (m : FmRec) (p : PerVoice Hist) (c : Chip) :
    setFm v m (withVis p c) = withVis p (setFm v m c) := rfl
@[simp] theorem setPw_withVis (v : Voice) (m : PwRec) (p : PerVoice Hist) (c : Chip) :
    setPw v m (withVis p c) = withVis p (setPw v m c) := rfl
@[simp] theorem setSw_withVis (v : Voice) (k : Option SwallowScheme) (p : PerVoice Hist) (c : Chip) :
    setSw v k (withVis p c) = withVis p (setSw v k c) := rfl

@[simp] theorem setSource_withVis (type : DigiType) (src : DigiSrc) (p : PerVoice Hist) (c : Chip) :
    setSource type src (withVis p c) = withVis p (setSource type src c) := by
  by_cases h : c.det.type ≠ type ∨ c.det.src ≠ src
  · rw [setSource_of_change h, setSource_of_change (c := withVis p c) h]
    rfl
  · unfold setSource
    rw [if_neg h]
    exact if_neg h

@[simp] theorem capture_withVis (type : DigiType) (v : Voice) (x : Byte) (p : PerVoice Hist) (c : Chip) :
    capture type v x (withVis p c) = withVis p (capture type v x c) := by
  simp only [capture, setSource_withVis]
  rfl

/-! ### The algorithms (43_digi_detector.md R230 to R256) -/

/-- A detection step that answers the same whatever the visualisation histories, and leaves them. -/
def DeafStep (f : Chip → Chip × Bool) : Prop := ∀ p c, f (withVis p c) = (withVis p (f c).1, (f c).2)

theorem deafStep_fmOnWave (v : Voice) (val : Byte) : DeafStep (fmOnWave v val) := by
  intro p c
  by_cases h : fmTakes c v val
  · rw [fmOnWave_of_takes h, fmOnWave_of_takes (c := withVis p c) h, setFm_withVis, capture_withVis]
    rfl
  · rw [fmOnWave_of_not_takes h, fmOnWave_of_not_takes (c := withVis p c) h]
    rfl

theorem deafStep_fmOnFreqHi (v : Voice) (val : Byte) : DeafStep (fmOnFreqHi v val) := by
  intro p c
  by_cases h : (c.det.fm.get v).phase = .variant1 ∧ within c.cyc (c.det.fm.get v).ts Config.fmTimeout = true
  · rw [fmOnFreqHi_of_variant1 val h.1 h.2, fmOnFreqHi_of_variant1 (c := withVis p c) val h.1 h.2, setFm_withVis,
      capture_withVis]
    rfl
  · rw [fmOnFreqHi_of_not_variant1 val h, fmOnFreqHi_of_not_variant1 (c := withVis p c) val h]
    rfl

theorem deafStep_pwmOnWave (v : Voice) (val : Byte) : DeafStep (pwmOnWave v val) := by
  intro p c
  by_cases h : pwTakes c v val
  · rw [pwmOnWave_of_takes h, pwmOnWave_of_takes (c := withVis p c) h, setPw_withVis, capture_withVis]
    rfl
  · rw [pwmOnWave_of_not_takes h, pwmOnWave_of_not_takes (c := withVis p c) h]
    rfl

theorem deafStep_pwmOnPwLo (v : Voice) (val : Byte) : DeafStep (pwmOnPwLo v val) := by
  intro p c
  rw [pwmOnPwLo_eq, pwmOnPwLo_eq]
  rfl

theorem deafStep_swallowOnWave (v : Voice) (val : Byte) : DeafStep (swallowOnWave v val) := by
  intro p c
  have hsees : (swEnv (withVis p c) v = true ∧ Config.swallowTrans (getWave (withVis p c) v) val = true) ↔
      swEnv c v = true ∧ Config.swallowTrans (getWave c v) val = true := Iff.rfl
  unfold swallowOnWave
  by_cases h : swEnv c v = true ∧ Config.swallowTrans (getWave c v) val = true
  · rw [if_pos h, if_pos (hsees.mpr h)]
    rfl
  · rw [if_neg h, if_neg (mt hsees.mp h)]

theorem deafStep_swallowOnPulse (v : Voice) (r : PulseReg) (val : Byte) : DeafStep (swallowOnPulse v r val) := by
  intro p c
  have henv : swEnv (withVis p c) v = swEnv c v := rfl
  simp only [swallowOnPulse, withVis_det, henv, setSw_withVis, capture_withVis]
  cases c.det.sw.get v with
  | none => rfl
  | some k =>
    dsimp only
    split_ifs
    · cases Config.swallowUnpack k r val <;> rfl
    · rfl

theorem deafStep_id : DeafStep fun c => (c, false) := fun _ _ => rfl

theorem deafStep_fmDetect (v : Voice) (r : Nat) (val : Byte) : DeafStep (fmDetect v r val) := by
  unfold fmDetect
  split
  · exact deafStep_fmOnFreqHi v val
  · exact deafStep_fmOnWave v val
  · exact deafStep_id

theorem deafStep_pwmDetect (v : Voice) (r : Nat) (val : Byte) : DeafStep (pwmDetect v r val) := by
  unfold pwmDetect
  split
  · exact deafStep_pwmOnPwLo v val
  · exact deafStep_pwmOnWave v val
  · exact deafStep_id

theorem deafStep_swallowDetect (v : Voice) (r : Nat) (val : Byte) : DeafStep (swallowDetect v r val) := by
  unfold swallowDetect
  split
  · exact deafStep_swallowOnPulse v .lo val
  · exact deafStep_swallowOnPulse v .hi val
  · exact deafStep_swallowOnWave v val
  · exact deafStep_id

theorem deafStep_detectVoice (v : Voice) (r : Nat) (val : Byte) : DeafStep (detectVoice v r val) := by
  intro p c
  simp only [detectVoice, deafStep_fmDetect v r val p c]
  split
  · rfl
  · simp only [deafStep_pwmDetect v r val p]
    split
    · rfl
    · exact deafStep_swallowDetect v r val p _

theorem deafStep_d418Detect (val : Byte) : DeafStep (d418Detect val) := by
  intro p c
  have hmahoney : isMahoney (withVis p c) = isMahoney c := rfl
  simp only [d418Detect, hmahoney, withVis_det, setSource_withVis]
  split_ifs <;> rfl

theorem deafStep_detectSample (a : Addr) (val : Byte) : DeafStep (detectSample a val) := by
  intro p c
  have hlatch : psidLatch a val (withVis p c) = withVis p (psidLatch a val c) := rfl
  simp only [detectSample, withVis_det, hlatch, detectAt]
  split
  · split
    · exact deafStep_detectVoice _ _ _ p _
    · split
      · exact deafStep_d418Detect _ p _
      · rfl
  · rfl

/-! ### What of a chip is heard -/

/-- A change of a chip that what is heard after it depends on what was heard before it alone. -/
def Deaf (f : Chip → Chip) : Prop := ∀ c d, c.audible = d.audible → (f c).audible = (f d).audible

theorem deaf_of_withVis {f : Chip → Chip} (h : ∀ p c, (f (withVis p c)).audible = (f c).audible) : Deaf f := by
  intro c d hcd
  calc (f c).audible = (f c.audible).audible := (h (perVoice zeroHist) c).symm
    _ = (f d.audible).audible := by rw [hcd]
    _ = (f d).audible := h (perVoice zeroHist) d

theorem audible_withVis (p : PerVoice Hist) (c : Chip) : (withVis p c).audible = c.audible := rfl

/-- A change that leaves the visualisation histories and does not read them. -/
theorem deaf_of_commutes {f : Chip → Chip} (h : ∀ p c, f (withVis p c) = withVis p (f c)) : Deaf f :=
  deaf_of_withVis fun p c => by rw [h, audible_withVis]

theorem deaf_writeChip {poke : Chip → Chip} (hpoke : Deaf poke) (a : Addr) (val : Byte) :
    Deaf (writeChip a val poke) := by
  refine deaf_of_withVis fun p c => hpoke _ _ ?_
  have hstep := deafStep_detectSample a val p { c with life := .active }
  have hlife : { withVis p c with life := .active } = withVis p { c with life := .active } := rfl
  rw [hlife, hstep]
  rfl

theorem deaf_pokeModeVol (val : Byte) : Deaf (pokeModeVol val) := by
  refine deaf_of_withVis fun p c => ?_
  simp only [pokeModeVol, filterPoke, pokeMode_eq]
  rfl

theorem deaf_clockChip : Deaf clockChip := deaf_of_commutes fun _ _ => rfl

theorem deaf_setModel (m : ChipModel) : Deaf (setModel m) := deaf_of_withVis fun _ _ => rfl

theorem deaf_resetCount : Deaf resetCount := by
  refine deaf_of_commutes fun p c => ?_
  by_cases h : c.det.count = 0 ∧ c.det.type ≠ .none
  · rw [resetCount_of_emptyWindow h.1 h.2, resetCount_of_emptyWindow (c := withVis p c) h.1 h.2]
    rfl
  · unfold resetCount
    rw [if_neg h]
    exact if_neg h

/-- A tick's sample, its count of RAM reads and the chip it leaves but for the histories. -/
theorem synthTick_audible {c d : Chip} (h : c.audible = d.audible) (extEn : Bool) (traceEn : Bool) (scale : Byte)
    (reads : Nat) :
    (synthTick extEn traceEn scale reads c).chip.audible = (synthTick extEn traceEn scale reads d).chip.audible
      ∧ (synthTick extEn traceEn scale reads c).y = (synthTick extEn traceEn scale reads d).y
      ∧ (synthTick extEn traceEn scale reads c).reads = (synthTick extEn traceEn scale reads d).reads := by
  have hvis : ∀ p e, (synthTick extEn traceEn scale reads (withVis p e)).chip.audible
        = (synthTick extEn traceEn scale reads e).chip.audible
      ∧ (synthTick extEn traceEn scale reads (withVis p e)).y = (synthTick extEn traceEn scale reads e).y
      ∧ (synthTick extEn traceEn scale reads (withVis p e)).reads = (synthTick extEn traceEn scale reads e).reads := by
    intro p e
    have hlife : { withVis p e with life := .active } = withVis p { e with life := .active } := rfl
    have hsums : tickSums (withVis p e) scale = tickSums e scale := rfl
    have hmixed : ∀ sm, mixed (withVis p e) sm = mixed e sm := fun _ => rfl
    have hext : ∀ m, extLevel extEn (withVis p e) m = extLevel extEn e m := fun _ => rfl
    have hplayer := psidTick_congr (c := e) (d := withVis p e) rfl rfl reads
    simp only [synthTick_eq, hlife, hsums, hmixed, hext, hplayer.2.1, hplayer.2.2, settledChip_withVis,
      psidAdvance_withVis, audible_withVis, and_self]
  have hc := hvis (perVoice zeroHist) c
  have hd := hvis (perVoice zeroHist) d
  rw [← audible_eq_withVis, h] at hc
  rw [← audible_eq_withVis] at hd
  exact ⟨hc.1.symm.trans hd.1, hc.2.1.symm.trans hd.2.1, hc.2.2.symm.trans hd.2.2⟩

theorem strippedTick_audible {c d : Chip} (h : c.audible = d.audible) (extEn : Bool) (scale : Byte) :
    (strippedTick extEn scale c).1.audible = (strippedTick extEn scale d).1.audible
      ∧ (strippedTick extEn scale c).2 = (strippedTick extEn scale d).2 := by
  have hvis : ∀ p e, (strippedTick extEn scale (withVis p e)).1.audible = (strippedTick extEn scale e).1.audible
      ∧ (strippedTick extEn scale (withVis p e)).2 = (strippedTick extEn scale e).2 := by
    intro p e
    have hlife : { withVis p e with life := .active } = withVis p { e with life := .active } := rfl
    have hsums : voiceSums (withVis p e) scale = voiceSums e scale := rfl
    have hmixed : ∀ sm, mixed (withVis p e) sm = mixed e sm := fun _ => rfl
    have hext : ∀ m, extLevel extEn (withVis p e) m = extLevel extEn e m := fun _ => rfl
    simp only [strippedTick_eq, hlife, hsums, hmixed, hext, settledChip_withVis, audible_withVis, and_self]
  have hc := hvis (perVoice zeroHist) c
  have hd := hvis (perVoice zeroHist) d
  rw [← audible_eq_withVis, h] at hc
  rw [← audible_eq_withVis] at hd
  exact ⟨hc.1.symm.trans hd.1, hc.2.symm.trans hd.2⟩

end Sys2Proof.Machine

/-! No trace and no visualisation history reaches what is heard (10_state.md R40, 20_memory.md R73, 42_filter.md R196). -/

namespace Sys2Proof.Machine

open Sys2Proof.Laws

/-- Two states that differ at most in the visualisation histories and in the trace buffers. -/
structure Alike (s u : State) : Prop where
  chip : ∀ j, (s.chip j).audible = (u.chip j).audible
  registry : s.registry = u.registry
  pcm : s.pcm = u.pcm
  port : s.port = u.port
  responses : s.responses = u.responses
  ramReads : s.ramReads = u.ramReads

theorem audible_chip (s : State) (j : Fin 10) : s.audible.chip j = (s.chip j).audible := by
  simp [State.audible, State.chip]

theorem audible_eq_iff (s u : State) : s.audible = u.audible ↔ Alike s u := by
  refine ⟨fun h => ⟨fun j => ?_, (congrArg State.registry h :), (congrArg State.pcm h :),
    (congrArg State.port h :), (congrArg State.responses h :), (congrArg State.ramReads h :)⟩, fun h => ?_⟩
  · rw [← audible_chip, ← audible_chip, h]
  · have hchips : s.chips.map Chip.audible = u.chips.map Chip.audible := by
      ext1 j hj
      simpa [State.chip] using h.chip ⟨j, hj⟩
    simp only [State.audible, hchips, h.registry, h.pcm, h.port, h.responses, h.ramReads]

/-- Where the first outcome is a state, so is the second, and the two are alike. -/
def AlikeNext (r q : Result) : Prop := ∀ t, r = .next t → ∃ u, q = .next u ∧ Alike t u

theorem alikeNext_next {s u : State} (h : Alike s u) : AlikeNext (.next s) (.next u) := by
  rintro t ht
  cases ht
  exact ⟨u, rfl, h⟩

theorem alikeNext_refused (e : Refusal) (q : Result) : AlikeNext (.refused e) q := fun _ ht => nomatch ht

theorem Alike.setChip {s u : State} (h : Alike s u) (i : Fin 10) {c d : Chip} (hcd : c.audible = d.audible) :
    Alike (s.setChip i c) (u.setChip i d) := by
  refine ⟨fun j => ?_, h.registry, h.pcm, h.port, h.responses, h.ramReads⟩
  rw [chip_setChip, chip_setChip]
  split
  · exact hcd
  · exact h.chip j

/-! ### The control operations -/

theorem alike_onInitialised {s u : State} (h : Alike s u) (i : Fin 10) {k l : Chip → Result}
    (hk : AlikeNext (k (s.chip i)) (l (u.chip i))) : AlikeNext (onInitialised i s k) (onInitialised i u l) := by
  have hlife : (s.chip i).life = (u.chip i).life := (congrArg Chip.life (h.chip i) :)
  unfold onInitialised
  rw [← hlife]
  split
  · exact alikeNext_refused _ _
  · exact hk

theorem alike_onBus {s u : State} (h : Alike s u) (a : Addr) {k l : Fin 10 → Chip → Result}
    (hk : ∀ i, AlikeNext (k i (s.chip i)) (l i (u.chip i))) : AlikeNext (onBus a s k) (onBus a u l) := by
  have hbus : busChip s a = busChip u a := by simp only [busChip, h.registry]
  unfold onBus
  rw [← hbus]
  split
  · exact alikeNext_refused _ _
  · exact alike_onInitialised h _ (hk _)

theorem alike_onChip {s u : State} (h : Alike s u) (c : BitVec 8) {absent absent' : Result}
    {k l : Fin 10 → Chip → Result} (habsent : AlikeNext absent absent')
    (hk : ∀ i, AlikeNext (k i (s.chip i)) (l i (u.chip i))) : AlikeNext (onChip c s absent k) (onChip c u absent' l) := by
  unfold onChip
  split
  · exact habsent
  · exact alike_onInitialised h _ (hk _)

theorem alike_respond {s u : State} (h : Alike s u) (w : BitVec 32) : AlikeNext (respond w s) (respond w u) :=
  alikeNext_next ⟨h.chip, h.registry, h.pcm, h.port, by simp only [h.responses], h.ramReads⟩

theorem alike_forEach {f : Fin 10 → State → Result} (hf : ∀ i s u, Alike s u → AlikeNext (f i s) (f i u))
    (l : List (Fin 10)) : ∀ s u, Alike s u → AlikeNext (forEach f l s) (forEach f l u) := by
  induction l with
  | nil => exact fun s u h => alikeNext_next h
  | cons i rest ih =>
    intro s u h t ht
    obtain ⟨v, hv, hrest⟩ := (andThen_eq_next _ _ _).mp ht
    obtain ⟨w, hw, hvw⟩ := hf i s u h v hv
    obtain ⟨t', ht', htt'⟩ := ih v w hvw t hrest
    exact ⟨t', (andThen_eq_next _ _ _).mpr ⟨w, hw, ht'⟩, htt'⟩

theorem alike_activeChips {s u : State} (h : Alike s u) : activeChips s = activeChips u := by
  simp only [activeChips, h.registry]

/-! ### The commands -/

theorem alike_writeBus {s u : State} (h : Alike s u) (a : Addr) (val : Byte) {poke : Chip → Chip} (hpoke : Deaf poke) :
    AlikeNext (writeBus a val poke s) (writeBus a val poke u) :=
  alike_onBus h a fun i => alikeNext_next (h.setChip i (deaf_writeChip hpoke a val _ _ (h.chip i)))

theorem alike_readBusWith {s u : State} (h : Alike s u) (a : Addr) {f : Chip → Byte} (hf : ∀ c : Chip, f c.audible = f c) :
    AlikeNext (readBusWith a f s) (readBusWith a f u) := by
  refine alike_onBus h a fun i => ?_
  have hbyte : f (s.chip i) = f (u.chip i) := by rw [← hf (s.chip i), h.chip i, hf]
  simp only [hbyte]
  exact alike_respond h _

theorem alike_digiCtrl {s u : State} (h : Alike s u) (c : BitVec 8) {f : Chip → Chip} (hf : Deaf f) :
    AlikeNext (digiCtrl c s f) (digiCtrl c u f) :=
  alike_onChip h c (alikeNext_next h) fun i => alikeNext_next (h.setChip i (hf _ _ (h.chip i)))

theorem alike_digiQuery {s u : State} (h : Alike s u) (c : BitVec 8) (f : Detector → BitVec 32) :
    AlikeNext (digiQuery c s f) (digiQuery c u f) := by
  refine alike_onChip h c (alike_respond h _) fun i => ?_
  have hdet : (s.chip i).det = (u.chip i).det := (congrArg Chip.det (h.chip i) :)
  simp only [hdet]
  exact alike_respond h _

theorem alike_clockAt (i : Fin 10) (s u : State) (h : Alike s u) : AlikeNext (clockAt i s) (clockAt i u) :=
  alike_onInitialised h i (alikeNext_next (h.setChip i (deaf_clockChip _ _ (h.chip i))))

theorem alike_synthAt {s u : State} (h : Alike s u) (i : Fin 10) (scale : Byte) (clearFlag traceEn : Bool)
    (offset : BitVec 32) :
    AlikeNext (synthAt i scale clearFlag traceEn offset s) (synthAt i scale clearFlag traceEn offset u) := by
  refine alike_onInitialised h i (alikeNext_next ?_)
  rw [← h.registry, ← h.ramReads]
  obtain ⟨hchip, hy, hreads⟩ := synthTick_audible (h.chip i) s.registry.extEn traceEn scale s.ramReads
  have hset := h.setChip i hchip
  have hchan := congrArg Chip.chan hchip
  refine ⟨hset.chip, h.registry, ?_, h.port, h.responses, hreads⟩
  simp only [storeSample, hy, h.pcm]
  exact congrArg (fun chan => pcmWrite offset chan clearFlag _ u.pcm) hchan

theorem alike_synthStrippedAt {s u : State} (h : Alike s u) (i : Fin 10) (scale : Byte) (clearFlag : Bool)
    (offset : BitVec 32) :
    AlikeNext (synthStrippedAt i scale clearFlag offset s) (synthStrippedAt i scale clearFlag offset u) := by
  refine alike_onInitialised h i (alikeNext_next ?_)
  rw [← h.registry]
  obtain ⟨hchip, hy⟩ := strippedTick_audible (h.chip i) s.registry.extEn scale
  have hset := h.setChip i hchip
  have hchan := congrArg Chip.chan hchip
  refine ⟨hset.chip, h.registry, ?_, h.port, h.responses, h.ramReads⟩
  simp only [hy, h.pcm]
  exact congrArg (fun chan => pcmWrite offset chan clearFlag _ u.pcm) hchan

theorem Alike.chan {s u : State} (h : Alike s u) (j : Fin 10) : (s.chip j).chan = (u.chip j).chan :=
  (congrArg Chip.chan (h.chip j) :)

theorem alike_synthAllTurn (traceEn : Bool) (offset : BitVec 32) (i : Fin 10) (s u : State) (h : Alike s u) :
    AlikeNext (synthAllTurn traceEn offset i s) (synthAllTurn traceEn offset i u) := by
  rw [synthAllTurn, synthAllTurn, channelScale_congr h.registry h.chan, firstOnChannel_congr h.chan]
  exact alike_synthAt h i _ _ _ offset

theorem alike_synthAllStrippedTurn (offset : BitVec 32) (i : Fin 10) (s u : State) (h : Alike s u) :
    AlikeNext (synthAllStrippedTurn offset i s) (synthAllStrippedTurn offset i u) := by
  rw [synthAllStrippedTurn, synthAllStrippedTurn, channelScale_congr h.registry h.chan, firstOnChannel_congr h.chan]
  exact alike_synthStrippedAt h i _ _ offset

theorem alike_withRegistry {s u : State} (h : Alike s u) {r q : Registry} (hrq : r = q) :
    Alike { s with registry := r } { u with registry := q } :=
  ⟨h.chip, hrq, h.pcm, h.port, h.responses, h.ramReads⟩

theorem alike_foldl {f : State → Fin 10 → State} (hf : ∀ s u i, Alike s u → Alike (f s i) (f u i)) (l : List (Fin 10)) :
    ∀ s u, Alike s u → Alike (l.foldl f s) (l.foldl f u) := by
  induction l with
  | nil => exact fun _ _ h => h
  | cons i rest ih => exact fun s u h => ih _ _ (hf s u i h)

theorem alike_setModelAt (bits : BitVec 10) (s u : State) (i : Fin 10) (h : Alike s u) :
    Alike (setModelAt bits s i) (setModelAt bits u i) :=
  h.setChip i (deaf_setModel _ _ _ (h.chip i))

theorem alike_chipResetAt (s u : State) (i : Fin 10) (h : Alike s u) : Alike (chipResetAt s i) (chipResetAt u i) := by
  rw [chipResetAt, chipResetAt, h.registry]
  exact h.setChip i rfl

theorem alike_resetAllState {s u : State} (h : Alike s u) (n : Fin 11) : Alike (resetAllState s n) (resetAllState u n) := by
  have hloop := alike_foldl alike_chipResetAt (chipsBelow n.val) s u h
  refine ⟨hloop.chip, ?_, hloop.pcm, hloop.port, hloop.responses, hloop.ramReads⟩
  simp only [resetAllState, hloop.registry, h.registry]

/-- Every command keeps two states alike. -/
theorem alike_exec (i : Instr) {s u : State} (h : Alike s u) : AlikeNext (exec i s) (exec i u) := by
  cases i with
  | writeFreqLo win v val | writeFreqHi win v val | writePwLo win v val | writePwHi win v val | writeWave win v val
  | writeAd win v val | writeSr win v val =>
    exact alike_writeBus h _ val (deaf_of_commutes fun _ _ => rfl)
  | writeFcLo win val | writeFcHi win val | writeResFilt win val | writeUnmapped addr val =>
    exact alike_writeBus h _ val (deaf_of_commutes fun _ _ => rfl)
  | writeModeVol win val => exact alike_writeBus h _ val (deaf_pokeModeVol val)
  | readBus addr | peekBus addr => exact alike_readBusWith h addr fun _ => rfl
  | readOsc3 win | readEnv3 win | peekOsc3 win | peekEnv3 win => exact alike_readBusWith h _ fun _ => rfl
  | clockAll =>
    simp only [exec, execClockAll, alike_activeChips h]
    exact alike_forEach alike_clockAt _ s u h
  | synthAll traceEn offset =>
    simp only [exec, execSynthAll, alike_activeChips h]
    exact alike_forEach (alike_synthAllTurn traceEn offset) _ s u h
  | synthAllStripped offset =>
    simp only [exec, execSynthAllStripped, alike_activeChips h]
    exact alike_forEach (alike_synthAllStrippedTurn offset) _ s u h
  | resetAll =>
    simp only [exec, execResetAll, h.registry]
    split
    · exact alikeNext_refused _ _
    · split
      · exact alikeNext_refused _ _
      · exact alikeNext_next (alike_resetAllState h _)
  | configSrate | configCrate | configFlags | configCount | configChip =>
    exact alikeNext_next (alike_withRegistry h (by rw [h.registry]))
  | configReserved slot => exact alikeNext_next h
  | setModels bits =>
    simp only [exec, execSetModels, alike_activeChips h]
    exact alikeNext_next (alike_foldl (alike_setModelAt bits) _ s u h)
  | digiCtrlResetCount c => exact alike_digiCtrl h c deaf_resetCount
  | digiCtrlDisable c | digiCtrlEnable c | digiCtrlReset c =>
    exact alike_digiCtrl h c (deaf_of_commutes fun _ _ => rfl)
  | digiQueryType c | digiQueryDesc c => exact alike_digiQuery h c fun d => digiTypeCode d.type
  | digiQueryRate c => exact alike_digiQuery h c digiRate
  | digiQueryReserved c => exact alike_digiQuery h c fun _ => 0
  | clock c =>
    simp only [exec, execClock]
    split
    · exact alikeNext_next h
    · exact alike_clockAt _ s u h
  | synth c scale clearFlag traceEn offset =>
    simp only [exec, execSynth]
    split
    · exact alikeNext_next h
    · exact alike_synthAt h _ scale clearFlag traceEn offset
  | synthStripped c scale clearFlag offset =>
    simp only [exec, execSynthStripped]
    split
    · exact alikeNext_next h
    · exact alike_synthStrippedAt h _ scale clearFlag offset
  | reset c =>
    simp only [exec, execReset, h.registry]
    split
    · exact alikeNext_next h
    · split
      · exact alikeNext_refused _ _
      · exact alikeNext_next (alike_chipResetAt s u _ h)
  | reserved op => exact alikeNext_next h

end Sys2Proof.Machine

namespace Sys2Proof.Proofs

open Sys2Proof.Machine Sys2Proof.Laws

/-- Settles O49: every command keeps two states alike in all but the visualisation histories and the traces. -/
theorem tracesNeverReachTheAudio : Obligations.TracesNeverReachTheAudio := by
  intro i s s' t hs ht
  obtain ⟨t', ht', halike⟩ := alike_exec i ((audible_eq_iff s s').mp hs) t ht
  exact ⟨t', ht', (audible_eq_iff t t').mpr halike⟩

end Sys2Proof.Proofs
